-- ==== Sys2Proof/Word.lean ====
section
/-! DEFINITION. The byte the ports carry and the colour value (spec/00 section 1.3, spec/01 R2). -/

namespace Sys2Proof

/-- One byte of a command, a result, the status byte or the control byte. -/
abbrev Byte := BitVec 8

/-- A colour value: three numbers red, green and blue, each 0 to 255. Equality of colour values is
equality of the three numbers in pairs (R2), which is the equality of this structure. -/
structure Colour where
  r : Byte
  g : Byte
  b : Byte
  deriving DecidableEq, Repr

/-- Black, (0, 0, 0). -/
def Colour.black : Colour := ⟨0, 0, 0⟩

end Sys2Proof
end

