-- ==== Sys2Proof/Config.lean ====
section
/-! DEFINITION. What the ZC512 fixes: the numbers of its tables and its limits. The spec leaves no
value open, so there is no free value here (INVENTORY.md, "What the manual leaves open"). -/

namespace Sys2Proof

/-- A cell number, 0 to 511 (R1). -/
abbrev CellNo := Fin 512

/-- A map slot number, 0 to 7 (R20). -/
abbrev SlotNo := Fin 8

/-- A band number, 0 to 3 (R107). -/
abbrev BandNo := Fin 4

namespace Config

/-- The staging queue holds at most 16 batches (R78). -/
abbrev maxBatches : Nat := 16

/-- The staging queue holds at most 64 edits in total (R78). -/
abbrev maxEdits : Nat := 64

/-- A SHARED cell has at most 255 holders (R4). -/
abbrev maxHolders : Nat := 255

/-- The greatest quota (R26, R38). -/
abbrev maxQuota : Nat := 512

/-- The greatest low-cells watermark (R156). -/
abbrev maxWatermark : Nat := 512

/-- The greatest first line of a band (R115). -/
abbrev maxFirstLine : Nat := 2047

/-- The line counter is held at 2047 (R104). -/
abbrev lastLine : Nat := 2047

/-- The greatest count of a range command (R44, R125). -/
abbrev maxRange : Nat := 16

/-- The batch number after 65535 is 1 (R75). -/
abbrev lastBatchNumber : Nat := 65535

/-- The commit interval after part reset, in milliseconds (R90, R143). -/
abbrev resetInterval : Nat := 40

end Config

end Sys2Proof
end

