-- ==== Sys2Proof/Syntax.lean ====
section
/-! DEFINITION. The ports, the command codes the ports carry, and Instr, the 36 steps of
spec/opcode_table.json. -/

namespace Sys2Proof

/-- The two command ports (R119). -/
inductive Port where
  | a
  | b
  deriving DecidableEq, Repr

/-- The port that is not this one. -/
def Port.other : Port → Port
  | .a => .b
  | .b => .a

/-- The level of the strap pin CTLSEL at the release of RESET# (R120). -/
inductive CtlSel where
  | low
  | high
  deriving DecidableEq, Repr

/-- The 23 commands of Table 6-5 that a port collects as bytes. -/
inductive Command where
  | openMap
  | closeMap
  | setFallback
  | mapInfo
  | allocShared
  | allocPrivate
  | allocRange
  | store
  | loadValues
  | release
  | releaseRange
  | freeze
  | queryIndex
  | findValue
  | commitWait
  | getNotice
  | setNotices
  | readState
  | forceClose
  | setQuota
  | setBand
  | setConfig
  | setBlank
  deriving DecidableEq, Repr

/-- The steps of the part, one constructor per row of spec/opcode_table.json, in the table's order.
The port of an access row is the port the access is made at. The port of a command row (openMap to
setBlank) is the port the table engine grants at that event (R129, R144); the arguments of the
command are the bytes that port has collected (R175). Log 2. -/
inductive Instr where
  /-- PART_RESET (R120): RESET# low and released, with CTLSEL at the given level. -/
  | partReset (ctlsel : CtlSel)
  /-- FRAME_START (R103, R87). -/
  | frameStart
  /-- LINE_START (R104). -/
  | lineStart
  /-- BLANK_START (R83, R105). -/
  | blankStart
  /-- PIXEL_EVENT (R111): one sampled pixel index with its PIXVAL. -/
  | pixelEvent (index : Byte) (pixval : Bool)
  /-- COMMIT_TIMER_EXPIRY (R92). -/
  | commitTimerExpiry
  /-- BATCH_APPLIED (R85). -/
  | batchApplied
  /-- INTER_BYTE_TIMER_EXPIRY (R126). -/
  | interByteTimerExpiry (p : Port)
  /-- DATA_WRITE (R123 to R125, R133). -/
  | dataWrite (p : Port) (value : Byte)
  /-- DATA_READ (R131, R134). -/
  | dataRead (p : Port)
  /-- STROBE_CONFLICT (R119). -/
  | strobeConflict (p : Port)
  /-- PORT_RESET (R139): a control write whose byte carries PORT_RESET. -/
  | portReset (p : Port) (control : Byte)
  /-- INTERRUPT_ENABLES (R137): a control write. -/
  | interruptEnables (p : Port) (control : Byte)
  /-- OPEN_MAP (R28, R29). -/
  | openMap (p : Port)
  /-- CLOSE_MAP (R31). -/
  | closeMap (p : Port)
  /-- SET_FALLBACK (R37). -/
  | setFallback (p : Port)
  /-- MAP_INFO (R39). -/
  | mapInfo (p : Port)
  /-- ALLOC_SHARED (R47 to R49). -/
  | allocShared (p : Port)
  /-- ALLOC_PRIVATE (R51, R52). -/
  | allocPrivate (p : Port)
  /-- ALLOC_RANGE (R53, R54). -/
  | allocRange (p : Port)
  /-- STORE (R55). -/
  | store (p : Port)
  /-- LOAD_VALUES (R56, R57). -/
  | loadValues (p : Port)
  /-- RELEASE (R59, R60). -/
  | release (p : Port)
  /-- RELEASE_RANGE (R62, R63). -/
  | releaseRange (p : Port)
  /-- FREEZE (R64 to R66). -/
  | freeze (p : Port)
  /-- QUERY_INDEX (R68 to R70). -/
  | queryIndex (p : Port)
  /-- FIND_VALUE (R71). -/
  | findValue (p : Port)
  /-- COMMIT_WAIT (R97). -/
  | commitWait (p : Port)
  /-- GET_NOTICE (R165). -/
  | getNotice (p : Port)
  /-- SET_NOTICES (R166). -/
  | setNotices (p : Port)
  /-- READ_STATE (R158). -/
  | readState (p : Port)
  /-- FORCE_CLOSE (R33). -/
  | forceClose (p : Port)
  /-- SET_QUOTA (R38). -/
  | setQuota (p : Port)
  /-- SET_BAND (R115). -/
  | setBand (p : Port)
  /-- SET_CONFIG (R156, R94). -/
  | setConfig (p : Port)
  /-- SET_BLANK (R117). -/
  | setBlank (p : Port)
  deriving DecidableEq, Repr

end Sys2Proof
end

