-- ==== Sys2Proof/Decode.lean ====
section
/-! DEFINITION. The command a word spells by the bits of spec/opcode_table.json. No row of the table
gives bits (98_reader.md: rows with fixed bits 0, rows with fields 0), so no word spells a command.
The decoding of the bytes that a port collects (Table 9-6) is in Machine/Operands.lean. Log 15. -/

namespace Sys2Proof

/-- The command that the word `w` of `nbits` bits spells: none, for every word. -/
def decodeTableWord (_nbits _w : Nat) : Option Instr := none

end Sys2Proof
end

