-- ==== Sys2Proof/Machine/State.lean ====
section
/-! DEFINITION. The state of the part, everything the spec gives it, as plain data; the faults and
refusals; the state after part reset. -/

namespace Sys2Proof.Machine

/-- The working part of a cell record (Table 1-3). The constructor is the cell's working state; the
fields a state lacks are absent (R1). -/
inductive Cell where
  /-- FREE: no working value, no holders, no owner. -/
  | free
  /-- SHARED: the working value and the number of working map entries bound to the cell (R4). -/
  | shared (value : Colour) (holders : Nat)
  /-- PRIVATE: the working value and the owner, the one working entry bound to the cell (R5). -/
  | priv (value : Colour) (slot : SlotNo) (index : Nat)
  deriving DecidableEq, Repr

/-- The working states of a map slot (Table 2-3). -/
inductive SlotState where
  | closed
  | opened
  | draining
  deriving DecidableEq, Repr

/-- The three sizes of a map (R24). -/
inductive MapSize where
  | s16
  | s64
  | s256
  deriving DecidableEq, Repr

/-- The working part of a map slot (Table 2-1). `entries` is `[]` while the slot is CLOSED and has no
entry list (R24); an entry that is `none` is UNBOUND. -/
structure Slot where
  state : SlotState
  owner : Option Port
  size : MapSize
  quota : Nat
  privCount : Nat
  sharedCount : Nat
  fallback : Colour
  entries : List (Option CellNo)
  deriving DecidableEq, Repr

/-- A slot's working part after part reset (R20). -/
def Slot.reset : Slot where
  state := .closed
  owner := none
  size := .s16
  quota := 512
  privCount := 0
  sharedCount := 0
  fallback := .black
  entries := []

/-- The display part of a map slot (Table 2-2). `shown` is the display state: true for OPEN. -/
structure SlotDisplay where
  shown : Bool
  size : MapSize
  fallback : Colour
  entries : List (Option CellNo)
  deriving DecidableEq, Repr

/-- A slot's display part after part reset (R21). -/
def SlotDisplay.reset : SlotDisplay where
  shown := false
  size := .s16
  fallback := .black
  entries := List.replicate 16 none

/-- A band record (Table 5-3). -/
structure Band where
  enabled : Bool
  firstLine : Nat
  slot : SlotNo
  base : Byte
  deriving DecidableEq, Repr

/-- A band record after part reset (R107). -/
def Band.reset : Band where
  enabled := false
  firstLine := 0
  slot := 0
  base := 0

/-- The display copies, which the scan-out path reads and batches change: the display values of the
cells, the display parts of the slots, the band table and the display blank colour. -/
structure Display where
  cells : Vector Colour 512
  slots : Vector SlotDisplay 8
  bands : Vector Band 4
  blank : Colour
  deriving DecidableEq, Repr

/-- The display copies after part reset (R81). -/
def Display.reset : Display where
  cells := Vector.replicate 512 .black
  slots := Vector.replicate 8 .reset
  bands := Vector.replicate 4 .reset
  blank := .black

/-- The seven kinds of edit (Table 4-1). -/
inductive Edit where
  | cellValue (cell : CellNo) (value : Colour)
  | entry (slot : SlotNo) (index : Nat) (cell : Option CellNo)
  | mapOpen (slot : SlotNo) (size : MapSize)
  | mapClose (slot : SlotNo)
  | mapFallback (slot : SlotNo) (value : Colour)
  | band (number : BandNo) (record : Band)
  | blank (value : Colour)
  deriving DecidableEq, Repr

/-- A batch of the staging queue (R75). -/
structure Batch where
  number : Nat
  port : Port
  edits : List Edit
  deriving DecidableEq, Repr

/-- The states of the commit unit (Table 4-3). The batch in application is the head of the staging
queue (R82). -/
inductive CommitState where
  | idle
  | applying
  deriving DecidableEq, Repr

/-- The commit timer: running with an interval of 1 to 255 ms, or stopped (Table 4-3, R90). -/
inductive CommitTimer where
  | stopped
  | running (ms : Nat)
  deriving DecidableEq, Repr

/-- A set of ports: the ports served (Table 4-3). -/
structure PortSet where
  a : Bool
  b : Bool
  deriving DecidableEq, Repr

/-- The state the commit unit holds (Table 4-3). -/
structure CommitUnit where
  state : CommitState
  cutPending : Bool
  served : PortSet
  appliedMark : Nat
  timer : CommitTimer
  rasterIdle : Bool
  deriving DecidableEq, Repr

/-- The commit unit after part reset (Table 4-3). -/
def CommitUnit.reset : CommitUnit where
  state := .idle
  cutPending := false
  served := ⟨false, false⟩
  appliedMark := 0
  timer := .running 40
  rasterIdle := true

/-- The map slot and index base that the band chosen for the line carried (Table 5-1). -/
structure LineSelection where
  slot : SlotNo
  base : Byte
  deriving DecidableEq, Repr

/-- The colours of the last five pixel events, `newest` first (R102, log 5). -/
structure OutputDelay where
  newest : Colour
  age1 : Colour
  age2 : Colour
  age3 : Colour
  age4 : Colour
  deriving DecidableEq, Repr

/-- The state the scan-out path holds (Table 5-1), and its colour output. -/
structure Scan where
  line : Nat
  selection : Option LineSelection
  blanked : Bool
  output : OutputDelay
  deriving DecidableEq, Repr

/-- The scan-out path after part reset (Table 5-1); the output is the display blank colour, black
(R101, R114). -/
def Scan.reset : Scan where
  line := 0
  selection := none
  blanked := true
  output := ⟨.black, .black, .black, .black, .black⟩

/-- The four notice kinds (Table 8-1). -/
inductive NoticeKind where
  | commitDone
  | mapRevoked
  | cellsLow
  | rasterIdle
  deriving DecidableEq, Repr

/-- A notice: its kind with its payload (Table 8-1). The payload of MAP_REVOKED is a set of slots, bit
n for slot n (Table 9-13); that of RASTER_IDLE is always 0. -/
inductive Notice where
  | commitDone (mark : Nat)
  | mapRevoked (slots : BitVec 8)
  | cellsLow (free : Nat)
  | rasterIdle
  deriving DecidableEq, Repr

/-- A port's notice enable mask (R161). -/
structure NoticeMask where
  commitDone : Bool
  mapRevoked : Bool
  cellsLow : Bool
  rasterIdle : Bool
  deriving DecidableEq, Repr

/-- The states of a port's sequencer (Table 6-3). -/
inductive SeqState where
  | idle
  | collecting
  | pending
  | waiting
  | reply
  deriving DecidableEq, Repr

/-- A held result: its bytes and the read position (R131). -/
structure Result where
  bytes : List Byte
  position : Nat
  deriving DecidableEq, Repr

/-- The state each port holds (Table 6-2), but for the control port flag, which is
`State.controlPort`. `lastRead` is the byte driven at the data read taken last, the model's record of
what the data lines carried (log 7). -/
structure PortState where
  seq : SeqState
  collected : List Byte
  expected : Option Nat
  interByteTimer : Bool
  request : Bool
  fence : Option Nat
  result : Option Result
  seqErr : Bool
  resultIrqEn : Bool
  noticeIrqEn : Bool
  notices : List Notice
  mask : NoticeMask
  lastRead : Option Byte
  deriving DecidableEq, Repr

/-- A port after part reset (Table 6-2). -/
def PortState.reset : PortState where
  seq := .idle
  collected := []
  expected := none
  interByteTimer := false
  request := false
  fence := none
  result := none
  seqErr := false
  resultIrqEn := false
  noticeIrqEn := false
  notices := []
  mask := ⟨false, false, false, false⟩
  lastRead := none

/-- The working configuration of the table engine (Table 7-1). -/
structure WorkingConfig where
  interval : Nat
  watermark : Nat
  blank : Colour
  deriving DecidableEq, Repr

/-- The working configuration after part reset (Table 7-1). -/
def WorkingConfig.reset : WorkingConfig where
  interval := 40
  watermark := 0
  blank := .black

/-- The state of the part. `pending` is the model's queue of the commands that wait (log 3). -/
structure State where
  /-- working parts of the 512 cells (R1) -/
  cells : Vector Cell 512
  /-- the free list, head first (R13) -/
  freeList : List CellNo
  /-- the shared-value index, sorted by cell number (R15, log 11) -/
  sharedIndex : List (Colour × CellNo)
  /-- working parts of the 8 map slots (R20) -/
  slots : Vector Slot 8
  /-- the working configuration (R143) -/
  config : WorkingConfig
  /-- the last-granted port (R143) -/
  lastGranted : Port
  /-- the staging queue, head first (R78) -/
  queue : List Batch
  /-- the next batch number (R75) -/
  nextBatch : Nat
  /-- the commit unit (R82) -/
  commit : CommitUnit
  /-- the display copies -/
  display : Display
  /-- the scan-out path (R101) -/
  scan : Scan
  /-- Port A (R121) -/
  portA : PortState
  /-- Port B (R121) -/
  portB : PortState
  /-- the control port (R120) -/
  controlPort : Port
  /-- the commands that wait, front first (log 3) -/
  pending : List Instr
  deriving DecidableEq, Repr

/-- Why a step stops: an event stands at the front of the queue that the spec says does not arise in
this state (log 2). All are safe: the part has no such step. -/
inductive Fault where
  /-- Raised by the command rows OPEN_MAP to SET_BLANK: the port named is not the port the table engine
  grants, since its request is not raised or the other port goes first (R146: a port with no request
  raised "is not granted"). Safe. -/
  | notGranted
  /-- Raised by the command rows OPEN_MAP to SET_BLANK: the granted port has collected another command
  than the row's (R129: the engine executes the collected command). Safe. -/
  | otherCommandCollected
  /-- Raised by INTER_BYTE_TIMER_EXPIRY: the port is not in COLLECTING or its timer is stopped
  (Table 6-4: "does not arise"). Safe. -/
  | interByteTimerStopped
  /-- Raised by COMMIT_TIMER_EXPIRY: the commit timer is stopped (R90: "it does not expire"). Safe. -/
  | commitTimerStopped
  /-- Raised by BATCH_APPLIED: no batch is in application (Table 4-4: "not possible"). Safe. -/
  | noBatchInApplication
  deriving DecidableEq, Repr

/-- Commands the model gives no meaning. -/
inductive Refusal where
  /-- Raised by exec for a row with no meaning yet. Safe. No row is left so. -/
  | notModelled (mnemonic : String)
  deriving DecidableEq, Repr

/-- The port that CTLSEL names the control port (R120). -/
def controlPortOf : CtlSel → Port
  | .low => .a
  | .high => .b

/-- The state right after a part reset with CTLSEL at the given level, with an empty queue of
commands (R1, R13, R15, R20, R21, R75, R78, R81, R101, R120, R121, R143). -/
def State.resetWith (ctlsel : CtlSel) : State where
  cells := Vector.replicate 512 .free
  freeList := List.finRange 512
  sharedIndex := []
  slots := Vector.replicate 8 .reset
  config := .reset
  lastGranted := .b
  queue := []
  nextBatch := 1
  commit := .reset
  display := .reset
  scan := .reset
  portA := .reset
  portB := .reset
  controlPort := controlPortOf ctlsel
  pending := []

/-- The machine right after reset. The level of CTLSEL is an input that the spec does not fix: low
here, which names Port A (DESIGN CHOICE, log 1). -/
def State.reset : State := State.resetWith .low

end Sys2Proof.Machine
end

