-- ==== Sys2Proof/Machine/Operands.lean ====
section
/-! DEFINITION. The bytes of commands and results: codes, lengths, fields and encodings (spec/09,
Tables 6-5 and 9-1 to 9-13). -/

namespace Sys2Proof.Machine

/-! ## Commands -/

/-- Byte 1 of each command (Table 9-6). -/
def codeOf : Command → Byte
  | .openMap => 0x01
  | .closeMap => 0x02
  | .setFallback => 0x03
  | .mapInfo => 0x04
  | .allocShared => 0x10
  | .allocPrivate => 0x11
  | .allocRange => 0x12
  | .store => 0x13
  | .loadValues => 0x14
  | .release => 0x15
  | .releaseRange => 0x16
  | .freeze => 0x17
  | .queryIndex => 0x18
  | .findValue => 0x19
  | .commitWait => 0x20
  | .getNotice => 0x21
  | .setNotices => 0x22
  | .readState => 0x23
  | .forceClose => 0x30
  | .setQuota => 0x31
  | .setBand => 0x32
  | .setConfig => 0x33
  | .setBlank => 0x34

/-- The command that a first byte names, if it names one (R123, Table 9-6). -/
def commandOfByte (b : Byte) : Option Command :=
  match b.toNat with
  | 0x01 => some .openMap
  | 0x02 => some .closeMap
  | 0x03 => some .setFallback
  | 0x04 => some .mapInfo
  | 0x10 => some .allocShared
  | 0x11 => some .allocPrivate
  | 0x12 => some .allocRange
  | 0x13 => some .store
  | 0x14 => some .loadValues
  | 0x15 => some .release
  | 0x16 => some .releaseRange
  | 0x17 => some .freeze
  | 0x18 => some .queryIndex
  | 0x19 => some .findValue
  | 0x20 => some .commitWait
  | 0x21 => some .getNotice
  | 0x22 => some .setNotices
  | 0x23 => some .readState
  | 0x30 => some .forceClose
  | 0x31 => some .setQuota
  | 0x32 => some .setBand
  | 0x33 => some .setConfig
  | 0x34 => some .setBlank
  | _ => none

/-- The length of a command in bytes; not known from its code for LOAD_VALUES (Table 6-5, R121). -/
def commandLength : Command → Option Nat
  | .openMap => some 2
  | .closeMap => some 2
  | .setFallback => some 5
  | .mapInfo => some 2
  | .allocShared => some 6
  | .allocPrivate => some 6
  | .allocRange => some 7
  | .store => some 6
  | .loadValues => none
  | .release => some 3
  | .releaseRange => some 4
  | .freeze => some 3
  | .queryIndex => some 3
  | .findValue => some 4
  | .commitWait => some 1
  | .getNotice => some 1
  | .setNotices => some 2
  | .readState => some 1
  | .forceClose => some 2
  | .setQuota => some 4
  | .setBand => some 7
  | .setConfig => some 4
  | .setBlank => some 4

/-- The length of a LOAD_VALUES of the count (R125). -/
def loadValuesLength (count : Nat) : Nat := 4 + 3 * count

/-! ## Fields of a command, bytes numbered from 1 (R171, R175) -/

/-- Byte `n` of a command. -/
def byteAt (cmd : List Byte) (n : Nat) : Byte := cmd.getD (n - 1) 0

/-- The two-byte number in bytes `n` and `n + 1`, high byte first (R171). -/
def wordAt (cmd : List Byte) (n : Nat) : Nat := (byteAt cmd n).toNat * 256 + (byteAt cmd (n + 1)).toNat

/-- The colour value in bytes `n` to `n + 2`: red, green, blue (R171). -/
def colourAt (cmd : List Byte) (n : Nat) : Colour :=
  ⟨byteAt cmd n, byteAt cmd (n + 1), byteAt cmd (n + 2)⟩

/-- The colour values of a LOAD_VALUES: that of index first + k in bytes 5 + 3k to 7 + 3k (R175). -/
def loadColours (cmd : List Byte) (count : Nat) : List Colour :=
  (List.range count).map fun k => colourAt cmd (5 + 3 * k)

/-- A slot number, if the byte is one (Table 9-7). -/
def slotOfByte (b : Byte) : Option SlotNo := if h : b.toNat < 8 then some ⟨b.toNat, h⟩ else none

/-- A band number, if the byte is one (Table 9-7). -/
def bandOfByte (b : Byte) : Option BandNo := if h : b.toNat < 4 then some ⟨b.toNat, h⟩ else none

/-- The map size of a size code (Table 9-1). -/
def sizeOfCode (b : Byte) : Option MapSize :=
  match b.toNat with
  | 0 => some .s16
  | 1 => some .s64
  | 2 => some .s256
  | _ => none

/-- A range count of ALLOC_RANGE or RELEASE_RANGE is judged at step 1 (R149). -/
abbrev rangeCountOk (count : Nat) : Prop := 1 ≤ count ∧ count ≤ Config.maxRange

/-- The notice mask of a SET_NOTICES byte (Table 9-8). -/
def maskOfByte (b : Byte) : NoticeMask where
  commitDone := b.getLsbD 0
  mapRevoked := b.getLsbD 1
  cellsLow := b.getLsbD 2
  rasterIdle := b.getLsbD 3

/-! ## Result bytes -/

/-- The result codes (Table 7-4). -/
inductive ResultCode where
  | ok
  | badCommand
  | badLength
  | timeout
  | badArgument
  | notPermitted
  | badMap
  | notOwner
  | badIndex
  | bound
  | unbound
  | notPrivate
  | quota
  | noCells
  | shareLimit
  | stageFull
  | noSlot
  deriving DecidableEq, Repr

/-- The value of each result code (Table 9-12). -/
def resultByte : ResultCode → Byte
  | .ok => 0x00
  | .badCommand => 0x01
  | .badLength => 0x02
  | .timeout => 0x03
  | .badArgument => 0x04
  | .notPermitted => 0x05
  | .badMap => 0x06
  | .notOwner => 0x07
  | .badIndex => 0x08
  | .bound => 0x09
  | .unbound => 0x0A
  | .notPrivate => 0x0B
  | .quota => 0x0C
  | .noCells => 0x0D
  | .shareLimit => 0x0E
  | .stageFull => 0x0F
  | .noSlot => 0x10

/-- A number in one byte (R171). -/
def oneByte (n : Nat) : List Byte := [BitVec.ofNat 8 n]

/-- A number in two bytes, high byte first (R171). -/
def twoBytes (n : Nat) : List Byte := [BitVec.ofNat 8 (n / 256), BitVec.ofNat 8 n]

/-- A flag in a result (R171). -/
def flagByte (b : Bool) : List Byte := [if b then 1 else 0]

/-- A colour value in three bytes (R171). -/
def colourBytes (v : Colour) : List Byte := [v.r, v.g, v.b]

/-- A slot state in a MAP_INFO result (Table 9-2). -/
def slotStateByte : SlotState → Byte
  | .closed => 0
  | .opened => 1
  | .draining => 2

/-- An owner port in a MAP_INFO result (Table 9-2). -/
def ownerByte : Option Port → Byte
  | none => 0
  | some .a => 1
  | some .b => 2

/-- A size code (Table 9-1). -/
def sizeCodeByte : MapSize → Byte
  | .s16 => 0
  | .s64 => 1
  | .s256 => 2

/-- The kind of a notice (Table 8-1). -/
def noticeKind : Notice → NoticeKind
  | .commitDone _ => .commitDone
  | .mapRevoked _ => .mapRevoked
  | .cellsLow _ => .cellsLow
  | .rasterIdle => .rasterIdle

/-- The code of a notice kind (Table 8-1). -/
def kindByte : NoticeKind → Byte
  | .commitDone => 1
  | .mapRevoked => 2
  | .cellsLow => 3
  | .rasterIdle => 4

/-- The two payload bytes of a notice (Table 9-13). -/
def payloadBytes : Notice → List Byte
  | .commitDone mark => twoBytes mark
  | .mapRevoked slots => [0, slots]
  | .cellsLow free => twoBytes free
  | .rasterIdle => [0, 0]

end Sys2Proof.Machine
end

