-- ==== Sys2Proof/Machine/Ops.lean ====
section
/-! DEFINITION. The named operations over the working tables, the staging queue, the display copies,
the commit unit, the scan-out path, the notice sets and the port sequencers. The meanings of the rows
are built from these. A shared operation is total: in a state no run reaches (log 14) it leaves what it
cannot find as it was. -/

namespace Sys2Proof.Machine

/-! ## Reading and replacing one item -/

/-- The number of entries of a map of the size (R24). -/
def MapSize.entries : MapSize → Nat
  | .s16 => 16
  | .s64 => 64
  | .s256 => 256

namespace State

/-- The working part of a cell. -/
def cell (s : State) (c : CellNo) : Cell := s.cells[c]

/-- Replace the working part of a cell. -/
def setCell (s : State) (c : CellNo) (w : Cell) : State := { s with cells := s.cells.set c w }

/-- The working part of a slot. -/
def slot (s : State) (n : SlotNo) : Slot := s.slots[n]

/-- Replace the working part of a slot. -/
def setSlot (s : State) (n : SlotNo) (x : Slot) : State := { s with slots := s.slots.set n x }

/-- The working entry of a slot at an index: `none` when UNBOUND. -/
def entry (s : State) (n : SlotNo) (i : Nat) : Option CellNo := (s.slot n).entries.getD i none

/-- Replace one working entry of a slot. -/
def setEntry (s : State) (n : SlotNo) (i : Nat) (e : Option CellNo) : State :=
  s.setSlot n { s.slot n with entries := (s.slot n).entries.set i e }

/-- One of the two ports. -/
def port (s : State) : Port → PortState
  | .a => s.portA
  | .b => s.portB

/-- Replace one of the two ports. -/
def setPort (s : State) (p : Port) (x : PortState) : State :=
  match p with
  | .a => { s with portA := x }
  | .b => { s with portB := x }

end State

/-! ## Notices (spec/08) -/

/-- Whether the mask enables a kind (R161). -/
def NoticeMask.enables (m : NoticeMask) : NoticeKind → Bool
  | .commitDone => m.commitDone
  | .mapRevoked => m.mapRevoked
  | .cellsLow => m.cellsLow
  | .rasterIdle => m.rasterIdle

/-- A present notice brought up to date by a raise of its kind (R163): the new payload, but for
MAP_REVOKED the union of the slots. -/
def updateNotice (present raised : Notice) : Notice :=
  match present, raised with
  | .mapRevoked old, .mapRevoked new => .mapRevoked (old ||| new)
  | _, _ => raised

/-- Taking a raise (R162): a present notice of the kind is brought up to date in its place; an absent
kind that the mask enables is added at the tail; otherwise nothing. -/
def takeRaise (mask : NoticeMask) (notices : List Notice) (raised : Notice) : List Notice :=
  if notices.any (fun n => noticeKind n = noticeKind raised) then
    notices.map fun n => if noticeKind n = noticeKind raised then updateNotice n raised else n
  else if mask.enables (noticeKind raised) then notices ++ [raised]
  else notices

/-- Raise a notice at a port (R162). -/
def State.raise (s : State) (p : Port) (raised : Notice) : State :=
  s.setPort p { s.port p with notices := takeRaise (s.port p).mask (s.port p).notices raised }

/-- Raise a notice at both ports (R164). -/
def State.raiseBoth (s : State) (raised : Notice) : State := (s.raise .a raised).raise .b raised

/-! ## Port sequencer (spec/06) -/

/-- The port with its command at an end of collection or execution: collected bytes discarded, the
expected length not yet known (log 10), timer stopped, request lowered, no fence. -/
def PortState.cleared (x : PortState) : PortState :=
  { x with collected := [], expected := none, interByteTimer := false, request := false, fence := none }

/-- The port goes to REPLY with a result, read position 0 (R129). -/
def PortState.reply (x : PortState) (bytes : List Byte) : PortState :=
  { x.cleared with seq := .reply, result := some ⟨bytes, 0⟩ }

/-- The port goes to WAITING with a fence and no result (R129, R130). -/
def PortState.wait (x : PortState) (fence : Nat) : PortState :=
  { x.cleared with seq := .waiting, fence := some fence, result := none }

/-- The command is whole: the port stops the timer, goes to PENDING and raises its request (R124). -/
def PortState.toPending (x : PortState) : PortState :=
  { x with seq := .pending, interByteTimer := false, request := true }

/-- A sequence error (R133 to R135). -/
def PortState.sequenceError (x : PortState) : PortState := { x with seqErr := true }

/-- A data write taken in IDLE (R123). -/
def PortState.beginCommand (x : PortState) (b : Byte) : PortState :=
  match commandOfByte b with
  | none => { x with seqErr := false }.reply [resultByte .badCommand]
  | some c =>
    let y := { x with seqErr := false, collected := [b], expected := commandLength c }
    if commandLength c = some 1 then y.toPending
    else { y with seq := .collecting, interByteTimer := true }

/-- A data write taken in COLLECTING (R124, R125). The count byte of a LOAD_VALUES, its fourth, fixes
the expected length or sends the port to REPLY with BAD_LENGTH. -/
def PortState.collect (x : PortState) (b : Byte) : PortState :=
  let y := { x with collected := x.collected ++ [b], interByteTimer := true }
  match x.expected with
  | some n => if y.collected.length = n then y.toPending else y
  | none =>
    if y.collected.length = 4 then
      if 1 ≤ b.toNat ∧ b.toNat ≤ Config.maxRange then
        { y with expected := some (loadValuesLength b.toNat) }
      else x.reply [resultByte .badLength]
    else y

/-- A data write taken by the port, in any sequencer state (Table 6-4). -/
def PortState.dataWrite (x : PortState) (b : Byte) : PortState :=
  match x.seq with
  | .idle => x.beginCommand b
  | .collecting => x.collect b
  | .pending => x.sequenceError
  | .waiting => x.sequenceError
  | .reply => x.sequenceError

/-- A data read taken out of REPLY: the port drives 0x00 and sets SEQERR (R134). -/
def PortState.readOutOfPhase (x : PortState) : PortState :=
  { x.sequenceError with lastRead := some 0 }

/-- A data read taken by the port, in any sequencer state (R131, R134). -/
def PortState.dataRead (x : PortState) : PortState :=
  match x.seq, x.result with
  | .reply, some r =>
    let y := { x with lastRead := some (r.bytes.getD r.position 0) }
    if r.position + 1 < r.bytes.length then { y with result := some ⟨r.bytes, r.position + 1⟩ }
    else { y with seq := .idle, result := none }
  | _, _ => x.readOutOfPhase

/-- The enables that a control byte carries: bit 1 RESULT_IRQ_EN, bit 2 NOTICE_IRQ_EN (R174). -/
def PortState.setEnables (x : PortState) (control : Byte) : PortState :=
  { x with resultIrqEn := control.getLsbD 1, noticeIrqEn := control.getLsbD 2 }

/-- A port reset (R139): back to IDLE, SEQERR clear, notice set empty, notice mask kept. -/
def PortState.portReset (x : PortState) : PortState :=
  { x.cleared with seq := .idle, result := none, seqErr := false, notices := [] }

/-- A control write (R137): the enables are set, and a byte that carries PORT_RESET resets the port. -/
def PortState.controlWrite (x : PortState) (control : Byte) : PortState :=
  if control.getLsbD 0 then (x.setEnables control).portReset else x.setEnables control

/-- The commit fence of the port is satisfied if it equals the number of the applied batch (R98). -/
def PortState.fenceEvent (x : PortState) (number : Nat) : PortState :=
  if x.fence = some number then x.reply (resultByte .ok :: twoBytes number) else x

/-! ## Staging queue (spec/04) -/

/-- The number after a batch number; 1 follows 65535, and 0 only before the first (R75). -/
def nextNumber (n : Nat) : Nat := if n = Config.lastBatchNumber then 1 else n + 1

/-- The edits used by a list of batches (R78). -/
def editsIn (q : List Batch) : Nat := (q.map fun b => b.edits.length).sum

namespace State

/-- The edits used of the staging queue (R78). -/
def editsUsed (s : State) : Nat := editsIn s.queue

/-- The batches used of the staging queue (R78). -/
def batchesUsed (s : State) : Nat := s.queue.length

/-- Room for one batch of `k` edits (R79). -/
abbrev roomFor (s : State) (k : Nat) : Prop :=
  s.batchesUsed < Config.maxBatches ∧ s.editsUsed + k ≤ Config.maxEdits

/-- Append a batch at the tail with the next batch number, and advance that number (R75, R77). -/
def appendBatch (s : State) (p : Port) (edits : List Edit) : State :=
  { s with queue := s.queue ++ [⟨s.nextBatch, p, edits⟩], nextBatch := nextNumber s.nextBatch }

/-- The batch in application: the oldest of the queue while the unit is APPLYING (R82). -/
def batchInApplication (s : State) : Option Batch :=
  match s.commit.state with
  | .idle => none
  | .applying => s.queue.head?

/-- The newest batch in the queue issued by the port (R97). -/
def newestBatchOf (s : State) (p : Port) : Option Batch := (s.queue.filter fun b => b.port = p).getLast?

end State

/-! ## Display copies -/

namespace Display

/-- Replace the display part of a slot. -/
def setSlot (d : Display) (n : SlotNo) (x : SlotDisplay) : Display := { d with slots := d.slots.set n x }

/-- The effect of one edit on the display copies (Table 4-1, R17, R40 to R42, R116, R117). -/
def applyEdit (d : Display) : Edit → Display
  | .cellValue c v => { d with cells := d.cells.set c v }
  | .entry n i e => d.setSlot n { d.slots[n] with entries := d.slots[n].entries.set i e }
  | .mapOpen n size => d.setSlot n ⟨true, size, .black, List.replicate size.entries none⟩
  | .mapClose n =>
    d.setSlot n { d.slots[n] with shown := false, entries := List.replicate d.slots[n].entries.length none }
  | .mapFallback n v => d.setSlot n { d.slots[n] with fallback := v }
  | .band k r => { d with bands := d.bands.set k r }
  | .blank v => { d with blank := v }

/-- The effect of a list of edits: that of applying them one by one in order (R76). -/
def applyEdits (d : Display) (es : List Edit) : Display := es.foldl applyEdit d

/-- The display entry of a slot at an index, if the slot is displayed OPEN, the index is below its
display size and the entry names a cell (R70). -/
def boundCell (d : Display) (n : SlotNo) (i : Nat) : Option CellNo :=
  if d.slots[n].shown ∧ i < d.slots[n].size.entries then d.slots[n].entries.getD i none else none

end Display

/-- The effect of one edit on the working parts of the slots: a MAP_CLOSE moves its slot from DRAINING
to CLOSED, with owner absent and no entry list (R41). -/
def closeDrained (slots : Vector Slot 8) : Edit → Vector Slot 8
  | .mapClose n =>
    if slots[n].state = .draining then
      slots.set n { slots[n] with state := .closed, owner := none, entries := [] }
    else slots
  | _ => slots

/-- All edits of a batch take effect together (R85, first step). -/
def State.applyEdits (s : State) (es : List Edit) : State :=
  { s with display := s.display.applyEdits es, slots := es.foldl closeDrained s.slots }

/-! ## Commit unit (spec/04) -/

/-- The commit timer restarted with an interval; stopped if the interval is 0 (R90). -/
def CommitTimer.restarted (interval : Nat) : CommitTimer :=
  if interval = 0 then .stopped else .running interval

/-- The set with a port added. -/
def PortSet.insert (x : PortSet) : Port → PortSet
  | .a => { x with a := true }
  | .b => { x with b := true }

/-- Whether the port is in the set. -/
def PortSet.has (x : PortSet) : Port → Bool
  | .a => x.a
  | .b => x.b

namespace State

/-- The commit timer restarts with the present interval (R90). -/
def restartTimer (s : State) : State :=
  { s with commit := { s.commit with timer := .restarted s.config.interval } }

/-- Begin a commit if the unit is IDLE and the queue is not empty (R83, R92, R93). -/
def beginCommit (s : State) : State :=
  if s.commit.state = .idle ∧ s.queue ≠ [] then
    { s with commit := { s.commit with state := .applying, served := ⟨false, false⟩, cutPending := false } }
  else s

/-- Raise COMMIT_DONE at a port if it was served (R89). -/
def commitDoneAt (s : State) (p : Port) : State :=
  if s.commit.served.has p then s.raise p (.commitDone s.commit.appliedMark) else s

/-- The commit ends: the unit returns to IDLE and COMMIT_DONE is raised at each port served (R89). -/
def endCommit (s : State) : State :=
  let t := { s with commit := { s.commit with state := .idle } }
  (t.commitDoneAt .a).commitDoneAt .b

/-- The fences of both ports meet the batch applied event of the numbered batch (R85, third step). -/
def fenceEvents (s : State) (number : Nat) : State :=
  { s with portA := s.portA.fenceEvent number, portB := s.portB.fenceEvent number }

/-- The first three steps of the batch applied event of batch `b`, whose successors are `rest`
(R85). -/
def applyBatch (s : State) (b : Batch) (rest : List Batch) : State :=
  let t := s.applyEdits b.edits
  let u := { t with
    queue := rest
    commit := { t.commit with appliedMark := b.number, served := t.commit.served.insert b.port } }
  u.fenceEvents b.number

/-- The fourth step of the batch applied event: the commit ends, cut or complete, or goes on (R85). -/
def continueCommit (s : State) : State :=
  if s.commit.cutPending ∨ s.queue = [] then s.endCommit else s

end State

/-! ## Scan-out path (spec/05) -/

/-- Of two bands in the order of their numbers, the one that goes before for the line: the later band
only if it is enabled, begins at or above the line, and begins after the earlier (R108). -/
def betterBand (line : Nat) (best : Option Band) (b : Band) : Option Band :=
  if b.enabled ∧ b.firstLine ≤ line then
    match best with
    | none => some b
    | some x => if x.firstLine < b.firstLine then some b else some x
  else best

/-- The band chosen for a line (R108). -/
def chosenBand (bands : Vector Band 4) (line : Nat) : Option Band :=
  bands.toList.foldl (betterBand line) none

/-- The line selection for a line (R108). -/
def selectLine (bands : Vector Band 4) (line : Nat) : Option LineSelection :=
  (chosenBand bands line).map fun b => ⟨b.slot, b.base⟩

/-- The effective index: pixel index plus index base, modulo 256 (R112). -/
def effectiveIndex (index base : Byte) : Nat := (index + base).toNat

/-- The colour of a lookup in the selected slot (Table 5-4, the last four rows). -/
def slotColour (d : Display) (sel : LineSelection) (index : Byte) : Colour :=
  let x := d.slots[sel.slot]
  let i := effectiveIndex index sel.base
  if x.shown then
    if i < x.size.entries then
      match x.entries.getD i none with
      | none => x.fallback
      | some c => d.cells[c]
    else x.fallback
  else d.blank

/-- The colour a pixel event produces (R111, Table 5-4). -/
def pixelColour (d : Display) (sc : Scan) (index : Byte) (pixval : Bool) : Colour :=
  if sc.blanked then d.blank
  else
    match sc.selection with
    | none => d.blank
    | some sel => if pixval then slotColour d sel index else d.blank

/-- The output after one more pixel event (R102, log 5). -/
def OutputDelay.push (o : OutputDelay) (v : Colour) : OutputDelay := ⟨v, o.newest, o.age1, o.age2, o.age3⟩

/-- The colour the output holds if PIXCLK stops: that of the last pixel event (R102). -/
def State.heldColour (s : State) : Colour := s.scan.output.newest

/-- The colour on the output at the last pixel event of a running PIXCLK: that of four events before
(R102, log 5). -/
def State.delayedColour (s : State) : Colour := s.scan.output.age4

/-- The line selection made for a line number, with the line counter at it (R103, R104, R108). -/
def State.startLine (s : State) (line : Nat) : State :=
  { s with scan := { s.scan with line := line, selection := selectLine s.display.bands line } }

/-! ## Cells and map entries (spec/01, spec/02, spec/03) -/

/-- The pair of a cell put into the shared-value index, kept sorted by cell number (R15, log 11). -/
def indexInsert (v : Colour) (c : CellNo) : List (Colour × CellNo) → List (Colour × CellNo)
  | [] => [(v, c)]
  | (w, d) :: rest => if c < d then (v, c) :: (w, d) :: rest else (w, d) :: indexInsert v c rest

namespace State

/-- The length of the free list (R19). -/
def freeCount (s : State) : Nat := s.freeList.length

/-- The number of pairs in the shared-value index (R15, R19). -/
def sharedCellCount (s : State) : Nat := s.sharedIndex.length

/-- The number of PRIVATE cells (R19). -/
def privCellCount (s : State) : Nat :=
  s.cells.toList.countP fun
    | .priv _ _ _ => true
    | _ => false

/-- A lookup in the shared-value index (R16). -/
def lookup (s : State) (v : Colour) : Option CellNo := (s.sharedIndex.find? fun x => x.1 = v).map fun x => x.2

/-- The holders of a cell; 0 for a cell that is not SHARED. -/
def holders (s : State) (c : CellNo) : Nat :=
  match s.cell c with
  | .shared _ h => h
  | _ => 0

/-- The working value of a cell; black for a FREE cell, which has none. -/
def workingValue (s : State) (c : CellNo) : Colour :=
  match s.cell c with
  | .free => .black
  | .shared v _ => v
  | .priv v _ _ => v

/-- Change the private count of a slot. -/
def setPrivCount (s : State) (n : SlotNo) (k : Nat) : State := s.setSlot n { s.slot n with privCount := k }

/-- Change the shared count of a slot. -/
def setSharedCount (s : State) (n : SlotNo) (k : Nat) : State := s.setSlot n { s.slot n with sharedCount := k }

/-- A cell becomes FREE and joins the tail of the free list (R8, R9). -/
def freeCell (s : State) (c : CellNo) : State :=
  { s.setCell c .free with freeList := s.freeList ++ [c] }

/-- The pair of a cell leaves the shared-value index (R8). -/
def dropPair (s : State) (c : CellNo) : State :=
  { s with sharedIndex := s.sharedIndex.filter fun x => x.2 ≠ c }

/-- The pair of a SHARED cell enters the shared-value index (R15). -/
def addPair (s : State) (v : Colour) (c : CellNo) : State :=
  { s with sharedIndex := indexInsert v c s.sharedIndex }

/-- A SHARED cell loses a holder; without holders it becomes FREE and leaves the index (R7, R8). -/
def dropHolder (s : State) (c : CellNo) (v : Colour) (h : Nat) : State :=
  if h ≤ 1 then (s.freeCell c).dropPair c else s.setCell c (.shared v (h - 1))

/-- The cell at the head of the free list leaves it and becomes `w` (R6, R13). -/
def takeHead (s : State) (c : CellNo) (w : Cell) : State :=
  { s.setCell c w with freeList := s.freeList.tail }

/-- Bind an entry to the cell at the head of the free list as a new PRIVATE cell (R6, R52). -/
def bindPrivate (s : State) (n : SlotNo) (i : Nat) (c : CellNo) (v : Colour) : State :=
  let t := (s.takeHead c (.priv v n i)).setEntry n i (some c)
  t.setPrivCount n ((t.slot n).privCount + 1)

/-- Bind an entry to the cell at the head of the free list as a new SHARED cell (R6, R49). -/
def bindNewShared (s : State) (n : SlotNo) (i : Nat) (c : CellNo) (v : Colour) : State :=
  let t := ((s.takeHead c (.shared v 1)).addPair v c).setEntry n i (some c)
  t.setSharedCount n ((t.slot n).sharedCount + 1)

/-- Bind an entry to an existing SHARED cell, which gains a holder (R7, R48). -/
def bindHeldShared (s : State) (n : SlotNo) (i : Nat) (c : CellNo) (v : Colour) : State :=
  let t := (s.setCell c (.shared v (s.holders c + 1))).setEntry n i (some c)
  t.setSharedCount n ((t.slot n).sharedCount + 1)

/-- Release one entry (R60): a PRIVATE cell becomes FREE, a SHARED cell loses a holder, and the entry
becomes UNBOUND. An UNBOUND entry is left as it was. -/
def releaseEntry (s : State) (n : SlotNo) (i : Nat) : State :=
  match s.entry n i with
  | none => s
  | some c =>
    let t := s.setEntry n i none
    match s.cell c with
    | .free => t
    | .priv _ _ _ => (t.freeCell c).setPrivCount n ((t.slot n).privCount - 1)
    | .shared v h => (t.dropHolder c v h).setSharedCount n ((t.slot n).sharedCount - 1)

/-- Release entries in the order listed (R14, R32, R63). -/
def releaseEntries (s : State) (n : SlotNo) (is : List Nat) : State := is.foldl (fun t i => t.releaseEntry n i) s

/-- The bound indices among those listed, in order. -/
def boundAmong (s : State) (n : SlotNo) (is : List Nat) : List Nat := is.filter fun i => (s.entry n i).isSome

/-- The indices from `first`, `count` of them, ascending. -/
def indexRange (first count : Nat) : List Nat := List.range' first count

/-- All indices of a slot, ascending. -/
def allIndices (s : State) (n : SlotNo) : List Nat := List.range (s.slot n).size.entries

/-- The bound indices of a slot, ascending: what the release walk releases (R32). -/
def walkIndices (s : State) (n : SlotNo) : List Nat := s.boundAmong n (s.allIndices n)

/-- The release walk, after which the slot is DRAINING (R32). -/
def drainSlot (s : State) (n : SlotNo) : State :=
  let t := s.releaseEntries n (s.walkIndices n)
  t.setSlot n { t.slot n with state := .draining }

/-- Give the working value of the PRIVATE cell (R12). -/
def setPrivValue (s : State) (c : CellNo) (v : Colour) : State :=
  match s.cell c with
  | .priv _ n i => s.setCell c (.priv v n i)
  | _ => s

/-- The lowest-numbered CLOSED slot (R29). -/
def lowestClosed (s : State) : Option SlotNo := (List.finRange 8).find? fun n => (s.slot n).state = .closed

/-- The comparison of the watermark (R72): CELLS_LOW at both ports if the free count, `before` before
the command, was at least the watermark and is now below it; a watermark of 0 raises nothing. -/
def raiseIfLow (s : State) (before : Nat) : State :=
  if s.config.watermark ≤ before ∧ s.freeCount < s.config.watermark then s.raiseBoth (.cellsLow s.freeCount)
  else s

end State

/-! ## The table engine (spec/07) -/

/-- What the execution of a command gives (R144): a refusal with its code, an acceptance with the state
after the working changes, the appended batch and the offered notices, and the result fields after
OK, or a commit fence. -/
inductive Answer where
  | refusal (code : ResultCode)
  | accepted (s : State) (fields : List Byte)
  | fence (number : Nat)
  deriving DecidableEq, Repr

/-- One check of the shared order: go on if it holds, else refuse with the code (R149). -/
def check (c : Prop) [Decidable c] (code : ResultCode) (k : Answer) : Answer :=
  if c then k else .refusal code

/-- Step 1 for a slot number (R20, R149). -/
def withSlot (b : Byte) (k : SlotNo → Answer) : Answer :=
  match slotOfByte b with
  | none => .refusal .badArgument
  | some n => k n

/-- Steps 3 and 4: the slot is OPEN, and the issuing port owns it (R23, R149). -/
def ifOwned (s : State) (p : Port) (n : SlotNo) (k : Answer) : Answer :=
  check ((s.slot n).state = .opened) .badMap (check ((s.slot n).owner = some p) .notOwner k)

/-- Step 5 for one index (R46). -/
def ifIndex (s : State) (n : SlotNo) (i : Nat) (k : Answer) : Answer :=
  check (i < (s.slot n).size.entries) .badIndex k

/-- Step 5 for a range; the sum does not wrap at 256 (R46). -/
def ifRange (s : State) (n : SlotNo) (first count : Nat) (k : Answer) : Answer :=
  check (first + count ≤ (s.slot n).size.entries) .badIndex k

/-- Step 8 and the batch: refuse with STAGE_FULL if the batch does not fit, else append it (R77, R79).
`s` is the state with the command's other changes made. -/
def staged (s : State) (p : Port) (edits : List Edit) (fields : List Byte) : Answer :=
  check (s.roomFor edits.length) .stageFull (.accepted (s.appendBatch p edits) fields)

namespace State

/-- The PRIVATE cell that an entry owns, or the refusal of step 6 (R55). -/
def ownedCell (s : State) (n : SlotNo) (i : Nat) : Except ResultCode CellNo :=
  match s.entry n i with
  | none => .error .unbound
  | some c =>
    match s.cell c with
    | .priv _ _ _ => .ok c
    | _ => .error .notPrivate

/-- The PRIVATE cells that the entries own, or the refusal at the first index that fails (R56). -/
def ownedCells (s : State) (n : SlotNo) : List Nat → Except ResultCode (List CellNo)
  | [] => .ok []
  | i :: is =>
    match s.ownedCell n i with
    | .error code => .error code
    | .ok c =>
      match s.ownedCells n is with
      | .error code => .error code
      | .ok cs => .ok (c :: cs)

/-- The port that the engine grants (R146): the one whose request is raised; of two, the one not
granted last. -/
def grantedPort (s : State) : Option Port :=
  match s.portA.request, s.portB.request with
  | false, false => none
  | true, false => some .a
  | false, true => some .b
  | true, true => some s.lastGranted.other

/-- The port takes the result or the fence, and becomes the last-granted port (R129, R143, R144). -/
def deliver (s : State) (p : Port) : Answer → State
  | .refusal code => { s.setPort p ((s.port p).reply [resultByte code]) with lastGranted := p }
  | .accepted t fields =>
    { t.setPort p ((t.port p).reply (resultByte .ok :: fields)) with lastGranted := p }
  | .fence number => { s.setPort p ((s.port p).wait number) with lastGranted := p }

end State

/-- The grant and execution of the command `c` at port `p`, one event (R129, R144). The event does not
arise if the engine does not grant the port, or the port has collected another command (log 2). -/
def grant (c : Command) (answer : Port → List Byte → State → Answer) (p : Port) (s : State) :
    Host.Outcome State Fault Refusal :=
  if s.grantedPort = some p then
    if commandOfByte (byteAt (s.port p).collected 1) = some c then
      .next (s.deliver p (answer p (s.port p).collected s))
    else .fault .otherCommandCollected
  else .fault .notGranted

end Sys2Proof.Machine
end

