-- ==== Sys2Proof/Machine/Access.lean ====
section
/-! DEFINITION. The part reset and the accesses at a port (spec/06): PART_RESET, DATA_WRITE,
DATA_READ, STROBE_CONFLICT, PORT_RESET, INTERRUPT_ENABLES, INTER_BYTE_TIMER_EXPIRY. -/

namespace Sys2Proof.Machine

/-- PART_RESET (R120, R81, R145): every table, the queue, the commit unit, the scan-out path, the engine
and both ports take their reset values, and CTLSEL names the control port. The model's queue of
waiting commands stays (log 6). -/
def execPartReset (ctlsel : CtlSel) (s : State) : Host.Outcome State Fault Refusal :=
  .next { State.resetWith ctlsel with pending := s.pending }

/-- DATA_WRITE (R123 to R125, R133). -/
def execDataWrite (p : Port) (value : Byte) (s : State) : Host.Outcome State Fault Refusal :=
  .next (s.setPort p ((s.port p).dataWrite value))

/-- DATA_READ (R131, R134). -/
def execDataRead (p : Port) (s : State) : Host.Outcome State Fault Refusal :=
  .next (s.setPort p (s.port p).dataRead)

/-- STROBE_CONFLICT (R119): neither access is taken, and SEQERR is set. -/
def execStrobeConflict (p : Port) (s : State) : Host.Outcome State Fault Refusal :=
  .next (s.setPort p (s.port p).sequenceError)

/-- PORT_RESET (R137, R139): a control write whose byte carries PORT_RESET. Bit 0 of the operand is 1 by
the row; the operand gives the enables (log 8). -/
def execPortReset (p : Port) (control : Byte) (s : State) : Host.Outcome State Fault Refusal :=
  .next (s.setPort p ((s.port p).controlWrite (control ||| 1)))

/-- INTERRUPT_ENABLES (R137): a control write. Its byte does not carry PORT_RESET in a well-formed
term; one that does resets the port, as R137 says of every control write (log 8). -/
def execInterruptEnables (p : Port) (control : Byte) (s : State) : Host.Outcome State Fault Refusal :=
  .next (s.setPort p ((s.port p).controlWrite control))

/-- INTER_BYTE_TIMER_EXPIRY (R126): the collected bytes are discarded, and the port goes to REPLY with
TIMEOUT. -/
def execInterByteTimerExpiry (p : Port) (s : State) : Host.Outcome State Fault Refusal :=
  if (s.port p).seq = .collecting ∧ (s.port p).interByteTimer = true then
    .next (s.setPort p ((s.port p).reply [resultByte .timeout]))
  else .fault .interByteTimerStopped

end Sys2Proof.Machine
end

