-- ==== Sys2Proof/Machine/Bindings.lean ====
section
/-! DEFINITION. The commands that bind, change, release and freeze map entries (spec/03):
ALLOC_SHARED, ALLOC_PRIVATE, ALLOC_RANGE, STORE, LOAD_VALUES, RELEASE, RELEASE_RANGE, FREEZE. Byte 2 of
each is the slot and byte 3 the index or the first index. -/

namespace Sys2Proof.Machine

/-- The index, or first index, of a binding command: byte 3. -/
def indexArg (cmd : List Byte) : Nat := (byteAt cmd 3).toNat

/-- The count of a range command: byte 4. -/
def countArg (cmd : List Byte) : Nat := (byteAt cmd 4).toNat

/-- ALLOC_SHARED once its slot and index are judged: the value found or not (R47 to R49). -/
def allocSharedAt (p : Port) (n : SlotNo) (i : Nat) (v : Colour) (s : State) : Answer :=
  match s.lookup v with
  | some c =>
    check (s.holders c < Config.maxHolders) .shareLimit <|
    staged (s.bindHeldShared n i c v) p [.entry n i (some c)] (twoBytes c ++ flagByte false)
  | none =>
    match s.freeList.head? with
    | none => .refusal .noCells
    | some c =>
      staged ((s.bindNewShared n i c v).raiseIfLow s.freeCount) p [.cellValue c v, .entry n i (some c)]
        (twoBytes c ++ flagByte true)

/-- ALLOC_SHARED at the engine (R47 to R49). Bytes 4 to 6: colour. -/
def answerAllocShared (p : Port) (cmd : List Byte) (s : State) : Answer :=
  withSlot (byteAt cmd 2) fun n =>
    ifOwned s p n <|
    ifIndex s n (indexArg cmd) <|
    check (s.entry n (indexArg cmd) = none) .bound <|
    allocSharedAt p n (indexArg cmd) (colourAt cmd 4) s

/-- ALLOC_SHARED (R47 to R49). -/
def execAllocShared (p : Port) (s : State) : Host.Outcome State Fault Refusal :=
  grant .allocShared answerAllocShared p s

/-- ALLOC_PRIVATE once its slot, index and quota are judged (R51, R52). -/
def allocPrivateAt (p : Port) (n : SlotNo) (i : Nat) (v : Colour) (s : State) : Answer :=
  match s.freeList.head? with
  | none => .refusal .noCells
  | some c =>
    staged ((s.bindPrivate n i c v).raiseIfLow s.freeCount) p [.cellValue c v, .entry n i (some c)] (twoBytes c)

/-- ALLOC_PRIVATE at the engine (R51, R52). Bytes 4 to 6: colour. -/
def answerAllocPrivate (p : Port) (cmd : List Byte) (s : State) : Answer :=
  withSlot (byteAt cmd 2) fun n =>
    ifOwned s p n <|
    ifIndex s n (indexArg cmd) <|
    check (s.entry n (indexArg cmd) = none) .bound <|
    check ((s.slot n).privCount + 1 ≤ (s.slot n).quota) .quota <|
    allocPrivateAt p n (indexArg cmd) (colourAt cmd 4) s

/-- ALLOC_PRIVATE (R51, R52). -/
def execAllocPrivate (p : Port) (s : State) : Host.Outcome State Fault Refusal :=
  grant .allocPrivate answerAllocPrivate p s

/-- The indices of a range, ascending, each with the cell it receives from the head of the free list
(R6, R54). -/
def rangeCells (s : State) (first count : Nat) : List (Nat × CellNo) :=
  (State.indexRange first count).zip (s.freeList.take count)

/-- Bind each index to its cell as a new PRIVATE cell, in order (R54). -/
def bindRange (s : State) (n : SlotNo) (v : Colour) (pairs : List (Nat × CellNo)) : State :=
  pairs.foldl (fun t x => t.bindPrivate n x.1 x.2 v) s

/-- The edits of ALLOC_RANGE: for each index CELL_VALUE, then ENTRY (R54). -/
def rangeEdits (n : SlotNo) (v : Colour) (pairs : List (Nat × CellNo)) : List Edit :=
  pairs.flatMap fun x => [.cellValue x.2 v, .entry n x.1 (some x.2)]

/-- ALLOC_RANGE at the engine (R53, R54). Byte 4: count; bytes 5 to 7: colour. -/
def answerAllocRange (p : Port) (cmd : List Byte) (s : State) : Answer :=
  withSlot (byteAt cmd 2) fun n =>
    check (rangeCountOk (countArg cmd)) .badArgument <|
    ifOwned s p n <|
    ifRange s n (indexArg cmd) (countArg cmd) <|
    check (s.boundAmong n (State.indexRange (indexArg cmd) (countArg cmd)) = []) .bound <|
    check ((s.slot n).privCount + countArg cmd ≤ (s.slot n).quota) .quota <|
    check (countArg cmd ≤ s.freeCount) .noCells <|
    staged
      ((bindRange s n (colourAt cmd 5) (rangeCells s (indexArg cmd) (countArg cmd))).raiseIfLow s.freeCount) p
      (rangeEdits n (colourAt cmd 5) (rangeCells s (indexArg cmd) (countArg cmd))) []

/-- ALLOC_RANGE (R53, R54). -/
def execAllocRange (p : Port) (s : State) : Host.Outcome State Fault Refusal :=
  grant .allocRange answerAllocRange p s

/-- STORE at the engine (R55). Bytes 4 to 6: colour. -/
def answerStore (p : Port) (cmd : List Byte) (s : State) : Answer :=
  withSlot (byteAt cmd 2) fun n =>
    ifOwned s p n <|
    ifIndex s n (indexArg cmd) <|
    match s.ownedCell n (indexArg cmd) with
    | .error code => .refusal code
    | .ok c => staged (s.setPrivValue c (colourAt cmd 4)) p [.cellValue c (colourAt cmd 4)] []

/-- STORE (R55). -/
def execStore (p : Port) (s : State) : Host.Outcome State Fault Refusal := grant .store answerStore p s

/-- Give each cell its value, in order (R57). -/
def loadAll (s : State) (pairs : List (CellNo × Colour)) : State :=
  pairs.foldl (fun t x => t.setPrivValue x.1 x.2) s

/-- The edits of LOAD_VALUES: one CELL_VALUE per index (R57). -/
def loadEdits (pairs : List (CellNo × Colour)) : List Edit := pairs.map fun x => .cellValue x.1 x.2

/-- LOAD_VALUES at the engine (R56, R57). Byte 4: count, judged by the port (R125); bytes 5 onward: the
colours. -/
def answerLoadValues (p : Port) (cmd : List Byte) (s : State) : Answer :=
  withSlot (byteAt cmd 2) fun n =>
    ifOwned s p n <|
    ifRange s n (indexArg cmd) (countArg cmd) <|
    match s.ownedCells n (State.indexRange (indexArg cmd) (countArg cmd)) with
    | .error code => .refusal code
    | .ok cs =>
      staged (loadAll s (cs.zip (loadColours cmd (countArg cmd)))) p
        (loadEdits (cs.zip (loadColours cmd (countArg cmd)))) []

/-- LOAD_VALUES (R56, R57). -/
def execLoadValues (p : Port) (s : State) : Host.Outcome State Fault Refusal :=
  grant .loadValues answerLoadValues p s

/-- Whether releasing the cell of one entry returns it to the free list: a PRIVATE cell, or a SHARED
cell with its last holder (R60). -/
def frees (s : State) (c : CellNo) : Bool :=
  match s.cell c with
  | .free => false
  | .shared _ h => h ≤ 1
  | .priv _ _ _ => true

/-- RELEASE at the engine (R59, R60). -/
def answerRelease (p : Port) (cmd : List Byte) (s : State) : Answer :=
  withSlot (byteAt cmd 2) fun n =>
    ifOwned s p n <|
    ifIndex s n (indexArg cmd) <|
    match s.entry n (indexArg cmd) with
    | none => .refusal .unbound
    | some c => staged (s.releaseEntry n (indexArg cmd)) p [.entry n (indexArg cmd) none] (flagByte (frees s c))

/-- RELEASE (R59, R60). -/
def execRelease (p : Port) (s : State) : Host.Outcome State Fault Refusal := grant .release answerRelease p s

/-- RELEASE_RANGE once its range is judged, with the bound indices of the range (R62, R63). -/
def releaseBound (p : Port) (n : SlotNo) (is : List Nat) (s : State) : Answer :=
  match is with
  | [] => .accepted s (oneByte 0)
  | _ :: _ => staged (s.releaseEntries n is) p (is.map fun i => .entry n i none) (oneByte is.length)

/-- RELEASE_RANGE at the engine (R62, R63). Byte 4: count. -/
def answerReleaseRange (p : Port) (cmd : List Byte) (s : State) : Answer :=
  withSlot (byteAt cmd 2) fun n =>
    check (rangeCountOk (countArg cmd)) .badArgument <|
    ifOwned s p n <|
    ifRange s n (indexArg cmd) (countArg cmd) <|
    releaseBound p n (s.boundAmong n (State.indexRange (indexArg cmd) (countArg cmd))) s

/-- RELEASE_RANGE (R62, R63). -/
def execReleaseRange (p : Port) (s : State) : Host.Outcome State Fault Refusal :=
  grant .releaseRange answerReleaseRange p s

/-- The counts of a slot after a FREEZE: one entry moves from private to shared (R25). -/
def Slot.frozen (x : Slot) : Slot := { x with privCount := x.privCount - 1, sharedCount := x.sharedCount + 1 }

/-- The working changes of a FREEZE that merges the entry from cell `c` into the SHARED cell `t` of the
value (R11, R65). -/
def mergeInto (s : State) (n : SlotNo) (i : Nat) (c t : CellNo) (v : Colour) : State :=
  let u := ((s.setCell t (.shared v (s.holders t + 1))).setEntry n i (some t)).freeCell c
  u.setSlot n (u.slot n).frozen

/-- The working changes of a FREEZE in place (R10, R66). -/
def freezeInPlace (s : State) (n : SlotNo) (c : CellNo) (v : Colour) : State :=
  let u := (s.setCell c (.shared v 1)).addPair v c
  u.setSlot n (u.slot n).frozen

/-- FREEZE at the engine (R64 to R66). -/
def answerFreeze (p : Port) (cmd : List Byte) (s : State) : Answer :=
  withSlot (byteAt cmd 2) fun n =>
    ifOwned s p n <|
    ifIndex s n (indexArg cmd) <|
    match s.ownedCell n (indexArg cmd) with
    | .error code => .refusal code
    | .ok c =>
      match s.lookup (s.workingValue c) with
      | some t =>
        check (s.holders t < Config.maxHolders) .shareLimit <|
        staged (mergeInto s n (indexArg cmd) c t (s.workingValue c)) p [.entry n (indexArg cmd) (some t)]
          (twoBytes t ++ flagByte true)
      | none => .accepted (freezeInPlace s n c (s.workingValue c)) (twoBytes c ++ flagByte false)

/-- FREEZE (R64 to R66). -/
def execFreeze (p : Port) (s : State) : Host.Outcome State Fault Refusal := grant .freeze answerFreeze p s

end Sys2Proof.Machine
end

