-- ==== Sys2Proof/Machine/Commit.lean ====
section
/-! DEFINITION. The events of the commit unit and the commit fence (spec/04): COMMIT_TIMER_EXPIRY,
BATCH_APPLIED, COMMIT_WAIT. -/

namespace Sys2Proof.Machine

/-- The raster idle flag at an expiry: set and RASTER_IDLE raised at both ports if it was clear (R91,
R92). -/
def State.noteRasterIdle (s : State) : State :=
  if s.commit.rasterIdle then s
  else { s with commit := { s.commit with rasterIdle := true } }.raiseBoth .rasterIdle

/-- COMMIT_TIMER_EXPIRY (R92). A stopped timer does not expire (R90). -/
def execCommitTimerExpiry (s : State) : Host.Outcome State Fault Refusal :=
  match s.commit.timer with
  | .stopped => .fault .commitTimerStopped
  | .running _ => .next s.restartTimer.noteRasterIdle.beginCommit

/-- BATCH_APPLIED (R85). -/
def execBatchApplied (s : State) : Host.Outcome State Fault Refusal :=
  match s.commit.state, s.queue with
  | .applying, b :: rest => .next (s.applyBatch b rest).continueCommit
  | _, _ => .fault .noBatchInApplication

/-- COMMIT_WAIT at the engine (R97): the fence is the newest batch of the port in the queue; with none,
the result is OK and the applied mark. -/
def answerCommitWait (p : Port) (_cmd : List Byte) (s : State) : Answer :=
  match s.newestBatchOf p with
  | some b => .fence b.number
  | none => .accepted s (twoBytes s.commit.appliedMark)

/-- COMMIT_WAIT (R97). -/
def execCommitWait (p : Port) (s : State) : Host.Outcome State Fault Refusal :=
  grant .commitWait answerCommitWait p s

end Sys2Proof.Machine
end

