-- ==== Sys2Proof/Machine/Maps.lean ====
section
/-! DEFINITION. The commands that open, close, configure and report maps (spec/02): OPEN_MAP,
CLOSE_MAP, SET_FALLBACK, MAP_INFO, FORCE_CLOSE, SET_QUOTA. -/

namespace Sys2Proof.Machine

/-- The slot as an accepted OPEN_MAP leaves it; the quota is kept (R29). -/
def Slot.openedFor (x : Slot) (p : Port) (size : MapSize) : Slot :=
  { x with
    state := .opened
    owner := some p
    size := size
    privCount := 0
    sharedCount := 0
    fallback := .black
    entries := List.replicate size.entries none }

/-- OPEN_MAP at the engine (R28, R29). Byte 2: size code. -/
def answerOpenMap (p : Port) (cmd : List Byte) (s : State) : Answer :=
  match sizeOfCode (byteAt cmd 2) with
  | none => .refusal .badArgument
  | some size =>
    match s.lowestClosed with
    | none => .refusal .noSlot
    | some n => staged (s.setSlot n ((s.slot n).openedFor p size)) p [.mapOpen n size] (oneByte n)

/-- OPEN_MAP (R28, R29). -/
def execOpenMap (p : Port) (s : State) : Host.Outcome State Fault Refusal := grant .openMap answerOpenMap p s

/-- CLOSE_MAP at the engine (R31, R32). Byte 2: slot. -/
def answerCloseMap (p : Port) (cmd : List Byte) (s : State) : Answer :=
  withSlot (byteAt cmd 2) fun n =>
    ifOwned s p n (staged (s.drainSlot n) p [.mapClose n] (twoBytes (s.walkIndices n).length))

/-- CLOSE_MAP (R31, R32). -/
def execCloseMap (p : Port) (s : State) : Host.Outcome State Fault Refusal := grant .closeMap answerCloseMap p s

/-- SET_FALLBACK at the engine (R37). Byte 2: slot; bytes 3 to 5: colour. -/
def answerSetFallback (p : Port) (cmd : List Byte) (s : State) : Answer :=
  withSlot (byteAt cmd 2) fun n =>
    ifOwned s p n
      (staged (s.setSlot n { s.slot n with fallback := colourAt cmd 3 }) p [.mapFallback n (colourAt cmd 3)] [])

/-- SET_FALLBACK (R37). -/
def execSetFallback (p : Port) (s : State) : Host.Outcome State Fault Refusal :=
  grant .setFallback answerSetFallback p s

/-- The result fields of MAP_INFO (Table 9-10, R39). The owner and the counts of a CLOSED slot are
absent and 0 in the slot itself (R172). -/
def mapInfoFields (x : Slot) : List Byte :=
  [slotStateByte x.state, ownerByte x.owner, sizeCodeByte x.size] ++ twoBytes x.quota ++ twoBytes x.privCount ++
    twoBytes x.sharedCount ++ colourBytes x.fallback

/-- MAP_INFO at the engine (R39). Byte 2: slot. -/
def answerMapInfo (_p : Port) (cmd : List Byte) (s : State) : Answer :=
  withSlot (byteAt cmd 2) fun n => .accepted s (mapInfoFields (s.slot n))

/-- MAP_INFO (R39). -/
def execMapInfo (p : Port) (s : State) : Host.Outcome State Fault Refusal := grant .mapInfo answerMapInfo p s

/-- The payload that names one slot (R34, Table 9-13). -/
def slotBit (n : SlotNo) : BitVec 8 := BitVec.twoPow 8 n

/-- MAP_REVOKED raised at the owner of the slot (R34). -/
def State.raiseRevoked (s : State) (n : SlotNo) (owner : Option Port) : State :=
  match owner with
  | some o => s.raise o (.mapRevoked (slotBit n))
  | none => s

/-- FORCE_CLOSE at the engine (R33, R34). Byte 2: slot. -/
def answerForceClose (p : Port) (cmd : List Byte) (s : State) : Answer :=
  withSlot (byteAt cmd 2) fun n =>
    check (p = s.controlPort) .notPermitted <|
    check ((s.slot n).state = .opened) .badMap <|
    staged ((s.drainSlot n).raiseRevoked n (s.slot n).owner) p [.mapClose n] (twoBytes (s.walkIndices n).length)

/-- FORCE_CLOSE (R33, R34). -/
def execForceClose (p : Port) (s : State) : Host.Outcome State Fault Refusal :=
  grant .forceClose answerForceClose p s

/-- SET_QUOTA at the engine (R38). Byte 2: slot; bytes 3 and 4: quota. -/
def answerSetQuota (p : Port) (cmd : List Byte) (s : State) : Answer :=
  withSlot (byteAt cmd 2) fun n =>
    check (wordAt cmd 3 ≤ Config.maxQuota) .badArgument <|
    check (p = s.controlPort) .notPermitted <|
    check ((s.slot n).privCount ≤ wordAt cmd 3) .quota <|
    .accepted (s.setSlot n { s.slot n with quota := wordAt cmd 3 }) []

/-- SET_QUOTA (R38). -/
def execSetQuota (p : Port) (s : State) : Host.Outcome State Fault Refusal := grant .setQuota answerSetQuota p s

end Sys2Proof.Machine
end

