-- ==== Sys2Proof/Machine/Notices.lean ====
section
/-! DEFINITION. The commands that act on the issuing port's notice set (spec/08): GET_NOTICE,
SET_NOTICES. -/

namespace Sys2Proof.Machine

/-- GET_NOTICE at the engine (R165, R177): the oldest notice is removed and returned, or kind 0 with
payload 0. -/
def answerGetNotice (p : Port) (_cmd : List Byte) (s : State) : Answer :=
  match (s.port p).notices with
  | [] => .accepted s [0, 0, 0]
  | x :: rest =>
    .accepted (s.setPort p { s.port p with notices := rest }) (kindByte (noticeKind x) :: payloadBytes x)

/-- GET_NOTICE (R165). -/
def execGetNotice (p : Port) (s : State) : Host.Outcome State Fault Refusal :=
  grant .getNotice answerGetNotice p s

/-- SET_NOTICES at the engine (R166). Byte 2: mask. -/
def answerSetNotices (p : Port) (cmd : List Byte) (s : State) : Answer :=
  .accepted (s.setPort p { s.port p with mask := maskOfByte (byteAt cmd 2) }) []

/-- SET_NOTICES (R166). -/
def execSetNotices (p : Port) (s : State) : Host.Outcome State Fault Refusal :=
  grant .setNotices answerSetNotices p s

end Sys2Proof.Machine
end

