-- ==== Sys2Proof/Machine/Raster.lean ====
section
/-! DEFINITION. The raster markers and the pixel event (spec/05), and the effect of the markers on the
commit unit (R83, R87): FRAME_START, LINE_START, BLANK_START, PIXEL_EVENT. -/

namespace Sys2Proof.Machine

/-- A FRAME_START at the commit unit: a cut pending if a commit is under way (R87). -/
def CommitUnit.frameStart (c : CommitUnit) : CommitUnit :=
  match c.state with
  | .idle => c
  | .applying => { c with cutPending := true }

/-- A BLANK_START at the commit unit before a commit may begin: the raster idle flag is cleared, and a
pending cut of a commit under way is withdrawn (R83, R91). -/
def CommitUnit.blankStart (c : CommitUnit) : CommitUnit :=
  match c.state with
  | .idle => { c with rasterIdle := false }
  | .applying => { c with rasterIdle := false, cutPending := false }

/-- FRAME_START (R103, R87). -/
def execFrameStart (s : State) : Host.Outcome State Fault Refusal :=
  let t := s.startLine 0
  .next { t with
    scan := { t.scan with blanked := false }
    commit := t.commit.frameStart }

/-- LINE_START (R104). -/
def execLineStart (s : State) : Host.Outcome State Fault Refusal :=
  .next (s.startLine (if s.scan.line < Config.lastLine then s.scan.line + 1 else s.scan.line))

/-- BLANK_START (R105, R83): output blanked, the commit timer restarted, the raster idle flag cleared, a
pending cut withdrawn, or a commit begun. -/
def execBlankStart (s : State) : Host.Outcome State Fault Refusal :=
  let t := { s with
    scan := { s.scan with blanked := true }
    commit := s.commit.blankStart }
  .next t.restartTimer.beginCommit

/-- PIXEL_EVENT (R111): one colour is produced from the display copies. -/
def execPixelEvent (index : Byte) (pixval : Bool) (s : State) : Host.Outcome State Fault Refusal :=
  .next { s with scan := { s.scan with output := s.scan.output.push (pixelColour s.display s.scan index pixval) } }

end Sys2Proof.Machine
end

