-- ==== Sys2Proof/Machine/Flags.lean ====
section
/-! DEFINITION. The status byte, the interrupt lines and the flags byte of READ_STATE (R136, R138,
R158, R173). They are views of the state; no row of the table reads the status byte. -/

namespace Sys2Proof.Machine

/-- The bits of a byte, bit 7 first. -/
def byteOfBits (b7 b6 b5 b4 b3 b2 b1 b0 : Bool) : Byte :=
  BitVec.ofNat 8 (b7.toNat * 128 + b6.toNat * 64 + b5.toNat * 32 + b4.toNat * 16 + b3.toNat * 8 +
    b2.toNat * 4 + b1.toNat * 2 + b0.toNat)

/-- READY: IDLE, COLLECTING or REPLY (Table 6-3). -/
def SeqState.ready : SeqState → Bool
  | .idle => true
  | .collecting => true
  | .pending => false
  | .waiting => false
  | .reply => true

/-- OUTBOUND: REPLY (Table 6-3). -/
def SeqState.outbound (q : SeqState) : Bool := q = .reply

/-- BUSY: not IDLE (Table 6-3). -/
def SeqState.busy (q : SeqState) : Bool := q ≠ .idle

/-- WAITING (Table 6-3). -/
def SeqState.isWaiting (q : SeqState) : Bool := q = .waiting

namespace State

/-- Whether the port is the control port (R120). -/
def isControl (s : State) (p : Port) : Bool := s.controlPort = p

/-- The byte a status read of the port returns (Table 9-3, R136, R173). -/
def statusByte (s : State) (p : Port) : Byte :=
  let x := s.port p
  byteOfBits false (s.isControl p) x.seqErr (!x.notices.isEmpty) x.seq.isWaiting x.seq.busy x.seq.outbound
    x.seq.ready

/-- The result condition of the interrupt line (R138). -/
def resultCondition (s : State) (p : Port) : Bool :=
  let x := s.port p
  x.resultIrqEn && decide (x.seq = .reply) &&
    (match x.result with
      | some r => r.position == 0
      | none => false)

/-- The notice condition of the interrupt line (R138). -/
def noticeCondition (s : State) (p : Port) : Bool := (s.port p).noticeIrqEn && !(s.port p).notices.isEmpty

/-- The interrupt output of the port (R138). -/
def irq (s : State) (p : Port) : Bool := s.resultCondition p || s.noticeCondition p

/-- The flags byte of a READ_STATE at the port (Table 9-11). -/
def stateFlags (s : State) (p : Port) : Byte :=
  byteOfBits false false false false false (s.isControl p) (s.commit.state = .applying) s.commit.rasterIdle

end State

end Sys2Proof.Machine
end

