-- ==== Sys2Proof/Machine/Reports.lean ====
section
/-! DEFINITION. The commands that report and change nothing (spec/03 section 3.7, spec/07 section
7.7): QUERY_INDEX, FIND_VALUE, READ_STATE. -/

namespace Sys2Proof.Machine

/-- The working report of QUERY_INDEX: kind, cell, value; zero for an UNBOUND entry (R69, R172). -/
def workingReport (s : State) (n : SlotNo) (i : Nat) : List Byte :=
  match s.entry n i with
  | none => [0, 0, 0, 0, 0, 0]
  | some c =>
    match s.cell c with
    | .free => [0, 0, 0, 0, 0, 0]
    | .shared v _ => [1] ++ twoBytes c ++ colourBytes v
    | .priv v _ _ => [2] ++ twoBytes c ++ colourBytes v

/-- The display report of QUERY_INDEX: flag, cell, display value; zero where the flag is 0 (R70,
R172). -/
def displayReport (d : Display) (n : SlotNo) (i : Nat) : List Byte :=
  match d.boundCell n i with
  | none => [0, 0, 0, 0, 0, 0]
  | some c => [1] ++ twoBytes c ++ colourBytes d.cells[c]

/-- QUERY_INDEX at the engine (R68 to R70). Byte 2: slot; byte 3: index. -/
def answerQueryIndex (_p : Port) (cmd : List Byte) (s : State) : Answer :=
  withSlot (byteAt cmd 2) fun n =>
    check ((s.slot n).state ≠ .closed) .badMap <|
    ifIndex s n (byteAt cmd 3).toNat <|
    .accepted s (workingReport s n (byteAt cmd 3).toNat ++ displayReport s.display n (byteAt cmd 3).toNat)

/-- QUERY_INDEX (R68 to R70). -/
def execQueryIndex (p : Port) (s : State) : Host.Outcome State Fault Refusal :=
  grant .queryIndex answerQueryIndex p s

/-- The result fields of FIND_VALUE: found flag, cell, holders; zero when not found (R71, R172). -/
def findFields (s : State) (v : Colour) : List Byte :=
  match s.lookup v with
  | none => [0, 0, 0, 0]
  | some c => [1] ++ twoBytes c ++ oneByte (s.holders c)

/-- FIND_VALUE at the engine (R71). Bytes 2 to 4: colour. -/
def answerFindValue (_p : Port) (cmd : List Byte) (s : State) : Answer :=
  .accepted s (findFields s (colourAt cmd 2))

/-- FIND_VALUE (R71). -/
def execFindValue (p : Port) (s : State) : Host.Outcome State Fault Refusal :=
  grant .findValue answerFindValue p s

/-- The result fields of READ_STATE (Table 9-11, R158). -/
def stateFields (s : State) (p : Port) : List Byte :=
  twoBytes s.freeCount ++ twoBytes s.sharedCellCount ++ twoBytes s.privCellCount ++ oneByte s.editsUsed ++
    oneByte s.batchesUsed ++ twoBytes s.commit.appliedMark ++ twoBytes s.nextBatch ++ [s.stateFlags p]

/-- READ_STATE at the engine (R158). -/
def answerReadState (p : Port) (_cmd : List Byte) (s : State) : Answer := .accepted s (stateFields s p)

/-- READ_STATE (R158). -/
def execReadState (p : Port) (s : State) : Host.Outcome State Fault Refusal :=
  grant .readState answerReadState p s

end Sys2Proof.Machine
end

