-- ==== Sys2Proof/Machine/Screen.lean ====
section
/-! DEFINITION. The privileged commands for the whole screen and the working configuration (spec/05
section 5.5, spec/07 section 7.6): SET_BAND, SET_CONFIG, SET_BLANK. -/

namespace Sys2Proof.Machine

/-- SET_BAND once its arguments are in range: privilege and room (R115). -/
def stageBand (p : Port) (k : BandNo) (record : Band) (s : State) : Answer :=
  check (p = s.controlPort) .notPermitted (staged s p [.band k record] [])

/-- SET_BAND at the engine (R115). Byte 2: band; byte 3: enable; bytes 4 and 5: first line; byte 6: slot;
byte 7: index base. -/
def answerSetBand (p : Port) (cmd : List Byte) (s : State) : Answer :=
  match bandOfByte (byteAt cmd 2) with
  | none => .refusal .badArgument
  | some k =>
    check (wordAt cmd 4 ≤ Config.maxFirstLine) .badArgument <|
    withSlot (byteAt cmd 6) fun n =>
      stageBand p k ⟨byteAt cmd 3 ≠ 0, wordAt cmd 4, n, byteAt cmd 7⟩ s

/-- SET_BAND (R115). -/
def execSetBand (p : Port) (s : State) : Host.Outcome State Fault Refusal := grant .setBand answerSetBand p s

/-- The working changes of SET_CONFIG: interval and watermark set, the commit timer restarted with the
new interval (R156, R94). -/
def State.configure (s : State) (interval watermark : Nat) : State :=
  { s with config := { s.config with interval := interval, watermark := watermark } }.restartTimer

/-- SET_CONFIG at the engine (R156, R94). Byte 2: interval; bytes 3 and 4: watermark. -/
def answerSetConfig (p : Port) (cmd : List Byte) (s : State) : Answer :=
  check (wordAt cmd 3 ≤ Config.maxWatermark) .badArgument <|
  check (p = s.controlPort) .notPermitted <|
  .accepted (s.configure (byteAt cmd 2).toNat (wordAt cmd 3)) []

/-- SET_CONFIG (R156, R94). -/
def execSetConfig (p : Port) (s : State) : Host.Outcome State Fault Refusal :=
  grant .setConfig answerSetConfig p s

/-- SET_BLANK at the engine (R117). Bytes 2 to 4: colour. -/
def answerSetBlank (p : Port) (cmd : List Byte) (s : State) : Answer :=
  check (p = s.controlPort) .notPermitted <|
  staged { s with config := { s.config with blank := colourAt cmd 2 } } p [.blank (colourAt cmd 2)] []

/-- SET_BLANK (R117). -/
def execSetBlank (p : Port) (s : State) : Host.Outcome State Fault Refusal :=
  grant .setBlank answerSetBlank p s

end Sys2Proof.Machine
end

