-- ==== Sys2Proof/Machine/Dispatch.lean ====
section
/-! DEFINITION. The dispatch: one arm per row of spec/opcode_table.json. -/

namespace Sys2Proof.Machine

/-- The effect of one command on everything but the queue of commands. -/
def exec (i : Instr) (s : State) : Host.Outcome State Fault Refusal :=
  match i with
  | .partReset ctlsel => Sys2Proof.Machine.execPartReset ctlsel s
  | .frameStart => Sys2Proof.Machine.execFrameStart s
  | .lineStart => Sys2Proof.Machine.execLineStart s
  | .blankStart => Sys2Proof.Machine.execBlankStart s
  | .pixelEvent index pixval => Sys2Proof.Machine.execPixelEvent index pixval s
  | .commitTimerExpiry => Sys2Proof.Machine.execCommitTimerExpiry s
  | .batchApplied => Sys2Proof.Machine.execBatchApplied s
  | .interByteTimerExpiry p => Sys2Proof.Machine.execInterByteTimerExpiry p s
  | .dataWrite p value => Sys2Proof.Machine.execDataWrite p value s
  | .dataRead p => Sys2Proof.Machine.execDataRead p s
  | .strobeConflict p => Sys2Proof.Machine.execStrobeConflict p s
  | .portReset p control => Sys2Proof.Machine.execPortReset p control s
  | .interruptEnables p control => Sys2Proof.Machine.execInterruptEnables p control s
  | .openMap p => Sys2Proof.Machine.execOpenMap p s
  | .closeMap p => Sys2Proof.Machine.execCloseMap p s
  | .setFallback p => Sys2Proof.Machine.execSetFallback p s
  | .mapInfo p => Sys2Proof.Machine.execMapInfo p s
  | .allocShared p => Sys2Proof.Machine.execAllocShared p s
  | .allocPrivate p => Sys2Proof.Machine.execAllocPrivate p s
  | .allocRange p => Sys2Proof.Machine.execAllocRange p s
  | .store p => Sys2Proof.Machine.execStore p s
  | .loadValues p => Sys2Proof.Machine.execLoadValues p s
  | .release p => Sys2Proof.Machine.execRelease p s
  | .releaseRange p => Sys2Proof.Machine.execReleaseRange p s
  | .freeze p => Sys2Proof.Machine.execFreeze p s
  | .queryIndex p => Sys2Proof.Machine.execQueryIndex p s
  | .findValue p => Sys2Proof.Machine.execFindValue p s
  | .commitWait p => Sys2Proof.Machine.execCommitWait p s
  | .getNotice p => Sys2Proof.Machine.execGetNotice p s
  | .setNotices p => Sys2Proof.Machine.execSetNotices p s
  | .readState p => Sys2Proof.Machine.execReadState p s
  | .forceClose p => Sys2Proof.Machine.execForceClose p s
  | .setQuota p => Sys2Proof.Machine.execSetQuota p s
  | .setBand p => Sys2Proof.Machine.execSetBand p s
  | .setConfig p => Sys2Proof.Machine.execSetConfig p s
  | .setBlank p => Sys2Proof.Machine.execSetBlank p s

end Sys2Proof.Machine
end

