-- ==== Sys2Proof/WellFormed.lean ====
section
/-! DEFINITION. Which terms of Instr are spelled as their row says. A control write is the row
PORT_RESET when bit 0 of its byte is 1 and the row INTERRUPT_ENABLES when it is 0 (R137, Table 9-5).
Every other operand may take any value of its type. -/

namespace Sys2Proof

/-- The control byte carries PORT_RESET: its bit 0 is 1 (Table 9-5). -/
def carriesPortReset (control : Byte) : Bool := control.getLsbD 0

/-- The term is spelled as its row says. -/
def Instr.wellFormed : Instr → Bool
  | .partReset _ => true
  | .frameStart => true
  | .lineStart => true
  | .blankStart => true
  | .pixelEvent _ _ => true
  | .commitTimerExpiry => true
  | .batchApplied => true
  | .interByteTimerExpiry _ => true
  | .dataWrite _ _ => true
  | .dataRead _ => true
  | .strobeConflict _ => true
  | .portReset _ control => carriesPortReset control
  | .interruptEnables _ control => !carriesPortReset control
  | .openMap _ => true
  | .closeMap _ => true
  | .setFallback _ => true
  | .mapInfo _ => true
  | .allocShared _ => true
  | .allocPrivate _ => true
  | .allocRange _ => true
  | .store _ => true
  | .loadValues _ => true
  | .release _ => true
  | .releaseRange _ => true
  | .freeze _ => true
  | .queryIndex _ => true
  | .findValue _ => true
  | .commitWait _ => true
  | .getNotice _ => true
  | .setNotices _ => true
  | .readState _ => true
  | .forceClose _ => true
  | .setQuota _ => true
  | .setBand _ => true
  | .setConfig _ => true
  | .setBlank _ => true

end Sys2Proof
end

