-- ==== Sys2Proof/Safety.lean ====
section
/-! DEFINITION. What holds of every state the part can be in, and the terms in which the statements
describe one step: which port is granted, what an answered port holds, which parts a step leaves
alone. -/

namespace Sys2Proof.Machine

/-! ## Invariants of the ports (spec/06, spec/08) -/

/-- The count of a LOAD_VALUES is one the port accepts (R125). -/
abbrev loadCountOk (cmd : List Byte) : Prop := rangeCountOk (byteAt cmd 4).toNat

/-- A LOAD_VALUES short of its end: the length is known from its fourth byte on (R125). -/
abbrev loadPartial (cmd : List Byte) (expected : Option Nat) : Prop :=
  (cmd.length < 4 ∧ expected = none) ∨
    (4 ≤ cmd.length ∧ loadCountOk cmd ∧ expected = some (loadValuesLength (byteAt cmd 4).toNat) ∧
      cmd.length < loadValuesLength (byteAt cmd 4).toNat)

/-- A whole LOAD_VALUES (R124, R125). -/
abbrev loadWhole (cmd : List Byte) (expected : Option Nat) : Prop :=
  loadCountOk cmd ∧ expected = some (loadValuesLength (byteAt cmd 4).toNat) ∧
    cmd.length = loadValuesLength (byteAt cmd 4).toNat

/-- The collected bytes of a port in COLLECTING: the first names a command, and they fall short of the
expected length (R121, R123 to R125). -/
def collectedPart (cmd : List Byte) (expected : Option Nat) : Bool :=
  match commandOfByte (byteAt cmd 1) with
  | none => false
  | some c =>
    match commandLength c with
    | some n => decide (expected = some n ∧ cmd ≠ [] ∧ cmd.length < n)
    | none => decide (cmd ≠ [] ∧ loadPartial cmd expected)

/-- The collected bytes of a port in PENDING: a whole command (R124, R125). -/
def collectedWhole (cmd : List Byte) (expected : Option Nat) : Bool :=
  match commandOfByte (byteAt cmd 1) with
  | none => false
  | some c =>
    match commandLength c with
    | some n => decide (expected = some n ∧ cmd.length = n)
    | none => decide (loadWhole cmd expected)

/-- What a port holds in each sequencer state (R121, R122): the collected bytes with the expected
length, and a held result of 1 to 14 bytes with one unread. -/
def seqOk (x : PortState) : Bool :=
  match x.seq with
  | .idle => decide (x.collected = [] ∧ x.expected = none)
  | .collecting => collectedPart x.collected x.expected
  | .pending => collectedWhole x.collected x.expected
  | .waiting => decide (x.collected = [] ∧ x.expected = none)
  | .reply => decide (x.collected = [] ∧ x.expected = none)

/-- A held result has at most 14 bytes, and at least one is unread (R122, R131, Table 6-2). -/
def resultOk : Option Result → Bool
  | none => true
  | some r => decide (r.position < r.bytes.length ∧ r.bytes.length ≤ 14)

/-- The invariant of one port (R122, Table 6-2, R160). -/
structure PortOk (x : PortState) : Prop where
  collected : seqOk x = true
  timer : x.interByteTimer = decide (x.seq = .collecting)
  request : x.request = decide (x.seq = .pending)
  fence : x.fence.isSome = decide (x.seq = .waiting)
  result : x.result.isSome = decide (x.seq = .reply)
  unread : resultOk x.result = true
  notices : (x.notices.map noticeKind).Nodup

/-- The invariant of both ports. -/
structure PortsOk (s : State) : Prop where
  a : PortOk s.portA
  b : PortOk s.portB

/-! ## Invariants of the staging queue and the commit unit (spec/04) -/

/-- The numbers of the batches follow one another from the one after `mark`, and `next` comes after
the last of them (R78, R96). -/
def numbered (mark : Nat) (q : List Batch) (next : Nat) : Prop :=
  match q with
  | [] => next = nextNumber mark
  | b :: rest => b.number = nextNumber mark ∧ numbered b.number rest next

/-- A fence of a port names a batch of that port in the queue (R97, R98). -/
abbrev fenceOk (s : State) (p : Port) : Prop :=
  ∀ k ∈ (s.port p).fence, ∃ b ∈ s.queue, b.number = k ∧ b.port = p

/-- The invariant of the staging queue and the commit unit (R75, R78, R82, R90, R96, R98). -/
structure QueueOk (s : State) : Prop where
  batches : s.batchesUsed ≤ 16
  edits : s.editsUsed ≤ 64
  sizes : ∀ b ∈ s.queue, 1 ≤ b.edits.length ∧ b.edits.length ≤ 32
  numbers : numbered s.commit.appliedMark s.queue s.nextBatch
  mark : s.commit.appliedMark ≤ 65535
  applying : s.commit.state = .applying → s.queue ≠ []
  fences : ∀ p, fenceOk s p

/-- The invariant of the numbers in the configuration, the timer, the bands and the line counter (R90,
R101, R107, R143). -/
structure ConfigOk (s : State) : Prop where
  interval : s.config.interval ≤ 255
  watermark : s.config.watermark ≤ 512
  timer : s.commit.timer = .restarted s.config.interval
  line : s.scan.line ≤ 2047

/-! ## Invariants of the working tables (spec/01, spec/02) -/

/-- The number of working entries bound to a cell, over all slots (R4). -/
def boundCount (s : State) (c : CellNo) : Nat :=
  ((List.finRange 8).map fun n => (s.slot n).entries.count (some c)).sum

/-- The cell is PRIVATE. -/
def isPriv (s : State) (c : CellNo) : Bool :=
  match s.cell c with
  | .priv _ _ _ => true
  | _ => false

/-- The cell is SHARED. -/
def isShared (s : State) (c : CellNo) : Bool :=
  match s.cell c with
  | .shared _ _ => true
  | _ => false

/-- Each cell is in exactly one of the three conditions of R3, with what R4 and R5 say of it. -/
def cellOk (s : State) (c : CellNo) : Bool :=
  match s.cell c with
  | .free => decide (c ∈ s.freeList ∧ boundCount s c = 0)
  | .shared v h => decide (c ∉ s.freeList ∧ (v, c) ∈ s.sharedIndex ∧ h = boundCount s c ∧ 1 ≤ h ∧ h ≤ 255)
  | .priv _ n i => decide (c ∉ s.freeList ∧ s.entry n i = some c ∧ boundCount s c = 1)

/-- Each pair of the shared-value index stands for a SHARED cell of that value (R15). -/
def pairOk (s : State) (x : Colour × CellNo) : Bool :=
  match s.cell x.2 with
  | .shared v _ => x.1 = v
  | _ => false

/-- The invariant of the cells, the free list and the shared-value index (R3 to R5, R13, R15). -/
structure CellsOk (s : State) : Prop where
  cells : ∀ c, cellOk s c = true
  freeNodup : s.freeList.Nodup
  pairs : ∀ x ∈ s.sharedIndex, pairOk s x = true
  sorted : (s.sharedIndex.map fun x => x.2).Pairwise (· < ·)
  values : (s.sharedIndex.map fun x => x.1).Nodup

/-- What a slot holds in each working state (Table 2-3, R22 to R24). -/
def slotStateOk (x : Slot) : Bool :=
  match x.state with
  | .closed => decide (x.owner = none ∧ x.entries = [])
  | .opened => decide (x.owner ≠ none ∧ x.entries.length = x.size.entries)
  | .draining => decide (x.owner ≠ none ∧ x.entries = List.replicate x.size.entries none)

/-- The invariant of one map slot (R22 to R26): the counts are those of its entries, and the private
count is within the quota. -/
structure SlotOk (s : State) (n : SlotNo) : Prop where
  state : slotStateOk (s.slot n) = true
  privCount : (s.slot n).privCount = (s.slot n).entries.countP fun e => e.any (isPriv s)
  sharedCount : (s.slot n).sharedCount = (s.slot n).entries.countP fun e => e.any (isShared s)
  quota : (s.slot n).privCount ≤ (s.slot n).quota ∧ (s.slot n).quota ≤ 512

/-- The invariant of the working tables. -/
structure TablesOk (s : State) : Prop where
  cells : CellsOk s
  slots : ∀ n, SlotOk s n

/-! ## Invariants between the working tables and the display copies (spec/02, spec/04) -/

/-- All edits in the staging queue, in the order of application (R80). -/
def queuedEdits (s : State) : List Edit := s.queue.flatMap fun b => b.edits

/-- A slot is DRAINING exactly while its MAP_CLOSE edit is in the queue, once (R22, R41). -/
def DrainingOk (s : State) : Prop :=
  ∀ n, (queuedEdits s).count (.mapClose n) = if (s.slot n).state = .draining then 1 else 0

/-- The display part that a slot's working part calls for (R88): that of an OPEN slot equals it field
for field; that of any other slot is CLOSED with every entry UNBOUND (R42). -/
def slotMatches (x : Slot) (d : SlotDisplay) : Prop :=
  match x.state with
  | .opened => d = ⟨true, x.size, x.fallback, x.entries⟩
  | _ => d.shown = false ∧ ∀ e ∈ d.entries, e = none

/-- The display copies `d` agree with the displayed part of the working state (R88): slot by slot, in
the blank colour, and in the values of the cells that OPEN slots bind. -/
structure Agrees (s : State) (d : Display) : Prop where
  slots : ∀ n, slotMatches (s.slot n) d.slots[n]
  blank : d.blank = s.config.blank
  cells : ∀ n i c, s.entry n i = some c → d.cells[c] = s.workingValue c

/-- Once every queued edit has been applied, the display copies agree with the working state (R18, R42,
R88). -/
def DisplayFollows (s : State) : Prop := Agrees s (s.display.applyEdits (queuedEdits s))

/-- The band table once every queued edit has been applied: for each band the record that the last
executed SET_BAND for it carried (R88, R116). -/
def bandsToCome (s : State) : Vector Band 4 := (s.display.applyEdits (queuedEdits s)).bands

/-! ## The effect of an edit (Table 4-1) -/

/-- The display part of one slot becomes `x`, and nothing else of the display copies changes. -/
structure ShownSlotBecomes (d d' : Display) (n : SlotNo) (x : SlotDisplay) : Prop where
  rest : d' = { d with slots := d'.slots }
  slot : d'.slots[n] = x
  others : ∀ m : SlotNo, m ≠ n → d'.slots[m] = d.slots[m]

/-- What the application of one edit makes of the display copies (Table 4-1): CELL_VALUE R17, MAP_OPEN
R40, MAP_CLOSE R41, ENTRY and MAP_FALLBACK R42, BAND R116, BLANK R117. -/
def EditEffect (d d' : Display) : Edit → Prop
  | .cellValue c v => d' = { d with cells := d'.cells } ∧ d'.cells[c] = v ∧ ∀ x : CellNo, x ≠ c → d'.cells[x] = d.cells[x]
  | .entry n i e => ShownSlotBecomes d d' n { d.slots[n] with entries := d.slots[n].entries.set i e }
  | .mapOpen n size => ShownSlotBecomes d d' n ⟨true, size, ⟨0, 0, 0⟩, List.replicate size.entries none⟩
  | .mapClose n => ShownSlotBecomes d d' n { d.slots[n] with
      shown := false, entries := List.replicate d.slots[n].entries.length none }
  | .mapFallback n v => ShownSlotBecomes d d' n { d.slots[n] with fallback := v }
  | .band k r => d' = { d with bands := d'.bands } ∧ d'.bands[k] = r ∧ ∀ j : BandNo, j ≠ k → d'.bands[j] = d.bands[j]
  | .blank v => d' = { d with blank := v }

/-! ## The terms of the statements about one step -/

/-- The engine grants port `p`, which has collected the bytes `cmd` (R129, R146): its request is raised,
and the other port's is not, or the other port was granted last. -/
structure Granted (s : State) (p : Port) (cmd : List Byte) : Prop where
  request : (s.port p).request = true
  turn : (s.port p.other).request = false ∨ s.lastGranted = p.other
  collected : (s.port p).collected = cmd

/-- The port is in REPLY with the result `bytes`, none of it read, and is the last-granted port; its
notice set and mask are left to other clauses (R129, R143). The expected length, which has no meaning in
REPLY, is left open (log 10). -/
structure Answered (s t : State) (p : Port) (bytes : List Byte) : Prop where
  last : t.lastGranted = p
  port : t.port p = { s.port p with
    seq := .reply, collected := [], expected := (t.port p).expected, interByteTimer := false, request := false,
    fence := none, result := some ⟨bytes, 0⟩, notices := (t.port p).notices, mask := (t.port p).mask }

/-- What no execution of the table engine changes: the display copies, the scan-out path, the control
port, the commands that wait, and the other port but for its notice set. -/
structure EngineFrame (s t : State) (p : Port) : Prop where
  display : t.display = s.display
  scan : t.scan = s.scan
  controlPort : t.controlPort = s.controlPort
  pending : t.pending = s.pending
  other : t.port p.other = { s.port p.other with notices := (t.port p.other).notices }

/-- The cells, the free list and the shared-value index are unchanged. -/
structure SameCells (s t : State) : Prop where
  cells : t.cells = s.cells
  freeList : t.freeList = s.freeList
  sharedIndex : t.sharedIndex = s.sharedIndex

/-- The working configuration and the commit unit are unchanged. -/
structure SameConfig (s t : State) : Prop where
  config : t.config = s.config
  commit : t.commit = s.commit

/-- The staging queue and the next batch number are unchanged. -/
structure SameQueue (s t : State) : Prop where
  queue : t.queue = s.queue
  nextBatch : t.nextBatch = s.nextBatch

/-- One batch of the edits is appended at the tail, with the next batch number, and that number is
advanced; 1 follows 65535 (R75, R77). -/
structure Appended (s t : State) (p : Port) (edits : List Edit) : Prop where
  queue : t.queue = s.queue ++ [⟨s.nextBatch, p, edits⟩]
  nextBatch : t.nextBatch = if s.nextBatch = 65535 then 1 else s.nextBatch + 1

/-- Both notice sets and masks are unchanged. -/
structure SameNotices (s t : State) : Prop where
  notices : ∀ q, (t.port q).notices = (s.port q).notices
  mask : ∀ q, (t.port q).mask = (s.port q).mask

/-- The notice is offered at the ports in `ports`, and at no other; the masks are unchanged
(R162). -/
structure Raised (s t : State) (ports : Port → Bool) (x : Notice) : Prop where
  notices : ∀ q, (t.port q).notices =
    if ports q then takeRaise (s.port q).mask (s.port q).notices x else (s.port q).notices
  mask : ∀ q, (t.port q).mask = (s.port q).mask

/-- One slot is replaced, and the other seven are unchanged. -/
structure SlotBecomes (s t : State) (n : SlotNo) (x : Slot) : Prop where
  slot : t.slot n = x
  others : ∀ m, m ≠ n → t.slot m = s.slot m

/-- A command of the engine refused with a code: the port is answered with the code alone, and nothing
else changes (R151). -/
structure RefusedWith (s t : State) (p : Port) (code : Byte) : Prop where
  answered : Answered s t p [code]
  frame : EngineFrame s t p
  cells : SameCells s t
  slots : t.slots = s.slots
  config : SameConfig s t
  queue : SameQueue s t
  notices : SameNotices s t

/-- The row, executed for port `p`, is refused with the code and changes nothing (R151). -/
def Refuses (i : Instr) (s : State) (p : Port) (code : Byte) : Prop :=
  ∃ t, exec i s = .next t ∧ RefusedWith s t p code

/-- The free count falls from at least the watermark to below it (R72). -/
abbrev crossesWatermark (s t : State) : Prop :=
  0 < s.config.watermark ∧ s.config.watermark ≤ s.freeCount ∧ t.freeCount < s.config.watermark

/-- CELLS_LOW is offered at both ports, with the free count after the command, if the watermark is
crossed, and nothing is offered otherwise (R72). -/
def LowCellsOffered (s t : State) : Prop :=
  Raised s t (fun _ => decide (crossesWatermark s t)) (.cellsLow t.freeCount)

/-- The staging queue has room for one batch of `k` edits (R79). -/
abbrev hasRoom (s : State) (k : Nat) : Prop :=
  s.queue.length < 16 ∧ (s.queue.map fun b => b.edits.length).sum + k ≤ 64

/-- Entries among those listed that are bound to a cell. -/
def bindingsIn (s : State) (n : SlotNo) (is : List Nat) (c : CellNo) : Nat := is.countP fun i => s.entry n i = some c

/-- A cell once the listed entries of a slot have been released (R7 to R9): a PRIVATE cell owned by one of
them is FREE, a SHARED cell has lost a holder for each, and is FREE when it has none left. -/
def afterRelease (s : State) (n : SlotNo) (is : List Nat) (c : CellNo) : Cell :=
  match s.cell c with
  | .free => .free
  | .priv v m i => if m = n ∧ i ∈ is then .free else .priv v m i
  | .shared v h =>
    if h = bindingsIn s n is c then .free else .shared v (h - bindingsIn s n is c)

/-- The cell that the release of entry `i`, one of the listed, puts at the tail of the free list: its
PRIVATE cell, or its SHARED cell if no holder outside the list is left and no later entry of the list
is bound to it (R14). -/
def freedAt (s : State) (n : SlotNo) (is : List Nat) (i : Nat) : Option CellNo :=
  match s.entry n i with
  | none => none
  | some c =>
    match s.cell c with
    | .free => none
    | .priv _ _ _ => some c
    | .shared _ h =>
      if h = bindingsIn s n is c ∧ ∀ j ∈ is, i < j → s.entry n j ≠ some c then some c else none

/-- The cells that the release of the listed entries frees, in the order they join the free list
(R14). -/
def freedInOrder (s : State) (n : SlotNo) (is : List Nat) : List CellNo := is.filterMap (freedAt s n is)

/-- The listed entries of a slot have been released (R14, R60): the cells, the free list and the
shared-value index, the entries, and the counts by as much as the entries were bound. -/
structure EntriesReleased (s t : State) (n : SlotNo) (is : List Nat) : Prop where
  cells : ∀ c, t.cell c = afterRelease s n is c
  freeList : t.freeList = s.freeList ++ freedInOrder s n is
  sharedIndex : t.sharedIndex = s.sharedIndex.filter fun x => isShared t x.2
  entries : ∀ i, t.entry n i = if i ∈ is then none else s.entry n i
  length : (t.slot n).entries.length = (s.slot n).entries.length
  privCount : (t.slot n).privCount + is.countP (fun i => (s.entry n i).any (isPriv s)) = (s.slot n).privCount
  sharedCount : (t.slot n).sharedCount + is.countP (fun i => (s.entry n i).any (isShared s)) = (s.slot n).sharedCount
  others : ∀ m, m ≠ n → t.slot m = s.slot m

/-- The row of the table that grants and executes a command. -/
def commandRow : Command → Port → Instr
  | .openMap => .openMap
  | .closeMap => .closeMap
  | .setFallback => .setFallback
  | .mapInfo => .mapInfo
  | .allocShared => .allocShared
  | .allocPrivate => .allocPrivate
  | .allocRange => .allocRange
  | .store => .store
  | .loadValues => .loadValues
  | .release => .release
  | .releaseRange => .releaseRange
  | .freeze => .freeze
  | .queryIndex => .queryIndex
  | .findValue => .findValue
  | .commitWait => .commitWait
  | .getNotice => .getNotice
  | .setNotices => .setNotices
  | .readState => .readState
  | .forceClose => .forceClose
  | .setQuota => .setQuota
  | .setBand => .setBand
  | .setConfig => .setConfig
  | .setBlank => .setBlank

/-- Byte 1 and length of each command, as Table 6-5 lists them; LOAD_VALUES has no fixed length. -/
def lengthTable : List (Byte × Option Nat) :=
  [(0x01, some 2), (0x02, some 2), (0x03, some 5), (0x04, some 2), (0x10, some 6), (0x11, some 6), (0x12, some 7),
    (0x13, some 6), (0x14, none), (0x15, some 3), (0x16, some 4), (0x17, some 3), (0x18, some 3), (0x19, some 4),
    (0x20, some 1), (0x21, some 1), (0x22, some 2), (0x23, some 1), (0x30, some 2), (0x31, some 4), (0x32, some 7),
    (0x33, some 4), (0x34, some 4)]

/-- The length of an OK result (Tables 6-5 and 9-9). -/
def okLength : Command → Nat
  | .openMap => 2
  | .closeMap => 3
  | .setFallback => 1
  | .mapInfo => 13
  | .allocShared => 4
  | .allocPrivate => 3
  | .allocRange => 1
  | .store => 1
  | .loadValues => 1
  | .release => 2
  | .releaseRange => 2
  | .freeze => 4
  | .queryIndex => 13
  | .findValue => 5
  | .commitWait => 3
  | .getNotice => 4
  | .setNotices => 1
  | .readState => 14
  | .forceClose => 3
  | .setQuota => 1
  | .setBand => 1
  | .setConfig => 1
  | .setBlank => 1

/-- The eight binding commands (spec/03). -/
def isBinding : Command → Bool
  | .allocShared => true
  | .allocPrivate => true
  | .allocRange => true
  | .store => true
  | .loadValues => true
  | .release => true
  | .releaseRange => true
  | .freeze => true
  | _ => false

/-- The binding commands that name a range. -/
def isRange : Command → Bool
  | .allocRange => true
  | .loadValues => true
  | .releaseRange => true
  | _ => false

/-- The byte that names a slot. -/
def slotByte (n : SlotNo) : Byte := BitVec.ofNat 8 n

/-- The three bytes of a colour value. -/
def colourOf (v : Colour) : List Byte := [v.r, v.g, v.b]

/-- The port owns the slot, which is OPEN. -/
abbrev ownsOpen (s : State) (p : Port) (n : SlotNo) : Prop :=
  (s.slot n).state = .opened ∧ (s.slot n).owner = some p

end Sys2Proof.Machine
end

