-- ==== Sys2Proof/Certificates/Slice0/Obligations.lean ====
section
/-! DEFINITION. The statements for the provers. Each says in its docstring which rule of spec/ it
formalises; OBLIGATIONS.json lists them. -/

open Sys2Proof Sys2Proof.Machine

/-! ## The step -/

/-- A step executes the command at the front of the queue on the state with the queue's rest, and on an
empty queue the block idles (the model's queue, log 3). -/
def Obligations.StepExecutesFrontCommand : Prop :=
  (∀ c rest s, s.pending = c :: rest → step s = exec c { s with pending := rest }) ∧
    ∀ s, s.pending = [] → step s = .next s

/-! ## Reset and invariants -/

/-- PART_RESET: every table, the queue, the engine, the commit unit, the scan-out path, the display
copies and both ports take their reset values, and CTLSEL names the control port (R1, R13, R15, R20,
R21, R75, R78, R81, R101, R107, R120, Tables 4-3, 5-1, 6-2, 7-1). The colour output and the last byte
read are the model's items and no part of the claim; the model's queue of commands stays (log 6). -/
def Obligations.PartResetRestoresResetValues : Prop :=
  ∀ (k : CtlSel) (s : State), ∃ t, exec (.partReset k) s = .next t ∧
    (∀ c, t.cell c = .free) ∧ t.freeList.map (fun c => c.val) = List.range 512 ∧ t.sharedIndex = [] ∧
    (∀ n, t.slot n = ⟨.closed, none, .s16, 512, 0, 0, ⟨0, 0, 0⟩, []⟩) ∧
    t.config = ⟨40, 0, ⟨0, 0, 0⟩⟩ ∧ t.lastGranted = .b ∧ t.queue = [] ∧ t.nextBatch = 1 ∧
    t.commit = ⟨.idle, false, ⟨false, false⟩, 0, .running 40, true⟩ ∧
    (∀ c : CellNo, t.display.cells[c] = ⟨0, 0, 0⟩) ∧
    (∀ n : SlotNo, t.display.slots[n] = ⟨false, .s16, ⟨0, 0, 0⟩, List.replicate 16 none⟩) ∧
    (∀ b : BandNo, t.display.bands[b] = ⟨false, 0, 0, 0⟩) ∧ t.display.blank = ⟨0, 0, 0⟩ ∧
    t.scan.line = 0 ∧ t.scan.selection = none ∧ t.scan.blanked = true ∧
    (∀ p, t.port p = ⟨.idle, [], none, false, false, none, none, false, false, false, [],
      ⟨false, false, false, false⟩, (t.port p).lastRead⟩) ∧
    t.controlPort = (if k = .low then .a else .b) ∧ t.pending = s.pending

/-- The state after a part reset, with CTLSEL at either level, meets every invariant. -/
def Obligations.ResetMeetsInvariants : Prop :=
  ∀ k, PortsOk (State.resetWith k) ∧ QueueOk (State.resetWith k) ∧ ConfigOk (State.resetWith k) ∧
    TablesOk (State.resetWith k) ∧ DrainingOk (State.resetWith k) ∧ DisplayFollows (State.resetWith k)

/-- Every step keeps the invariant of the ports: what each sequencer state holds (R121, R122), at most
one notice of each kind (R160). That the expected length is not yet known in IDLE, WAITING and REPLY is
the model's reading (log 10), which the spec states for resets only. -/
def Obligations.StepKeepsPortsOk : Prop := ∀ s t, PortsOk s → step s = .next t → PortsOk t

/-- Every step keeps the invariant of the staging queue: at most 16 batches and 64 edits, 1 to 32 edits a
batch, numbers in sequence from the applied mark to the next batch number, a batch to apply while
APPLYING, and every fence on a batch of its port in the queue (R75, R78, R82, R96, R98). The premise
on the ports is the invariant that StepKeepsPortsOk keeps. -/
def Obligations.StepKeepsQueueOk : Prop := ∀ s t, PortsOk s → QueueOk s → step s = .next t → QueueOk t

/-- Every step keeps the ranges of the interval, the watermark and the line counter, and the commit
timer running with the present interval, or stopped when that is 0 (R90, R94, R101, R156). -/
def Obligations.StepKeepsConfigOk : Prop := ∀ s t, ConfigOk s → step s = .next t → ConfigOk t

/-- Every step keeps the invariant of the working tables: every cell in exactly one condition, holders
and owners as the entries say, the free list and the shared-value index as the cells say, counts and
quotas of the slots (R3, R4, R5, R13, R15, R22 to R26). That the pairs of the index stand in the order of
their cell numbers is the model's choice (log 11), since R15 gives the set no order, and so is that the
absent entry list of a CLOSED slot is the empty list (log 12). -/
def Obligations.StepKeepsTablesOk : Prop := ∀ s t, TablesOk s → step s = .next t → TablesOk t

/-- Every step keeps: a slot is DRAINING exactly while its one MAP_CLOSE edit is queued (R22, R41). -/
def Obligations.StepKeepsDrainingOk : Prop := ∀ s t, DrainingOk s → step s = .next t → DrainingOk t

/-- Every step keeps: applying all queued edits to the display copies gives the displayed part of the
working state, for the map display parts, the blank colour and the values of the bound cells (R18, R42,
R88). The band table has no working copy (R116): applying all queued edits gives the same four band
records before and after every step but an accepted SET_BAND, which sets its own band to the record it
carries and leaves the other three, and PART_RESET, which sets all four to the reset record. With an empty
queue this is the correspondence of R88. -/
def Obligations.StepKeepsDisplayFollows : Prop :=
  (∀ s t, TablesOk s → DisplayFollows s → step s = .next t → DisplayFollows t) ∧
  ∀ s t, step s = .next t →
    ((∀ k, s.pending.head? ≠ some (.partReset k)) → (∀ p, s.pending.head? ≠ some (.setBand p)) →
      bandsToCome t = bandsToCome s) ∧
    (∀ k, s.pending.head? = some (.partReset k) → ∀ j : BandNo, (bandsToCome t)[j] = ⟨false, 0, 0, 0⟩) ∧
    (∀ p (k : BandNo) n enable hi lo base, s.pending.head? = some (.setBand p) →
      (s.port p).collected = [0x32, BitVec.ofNat 8 k.val, enable, hi, lo, slotByte n, base] →
      s.controlPort = p → hi.toNat * 256 + lo.toNat ≤ 2047 → hasRoom s 1 →
      (bandsToCome t)[k] = ⟨enable ≠ 0, hi.toNat * 256 + lo.toNat, n, base⟩ ∧
        ∀ j : BandNo, j ≠ k → (bandsToCome t)[j] = (bandsToCome s)[j]) ∧
    (∀ p, s.pending.head? = some (.setBand p) → t.queue = s.queue → bandsToCome t = bandsToCome s)

/-! ## Accesses at a port -/

/-- A data write taken in IDLE begins a command and clears SEQERR: a byte that is no command code of
Table 6-5 sends the port to REPLY with BAD_COMMAND, the code of a one-byte command to PENDING, any other
code to COLLECTING, with the timer running and the length of Table 6-5, not yet known for LOAD_VALUES
(R123). The expected length after BAD_COMMAND is left open (log 10). -/
def Obligations.DataWriteInIdleBeginsCommand : Prop :=
  ∀ p b s, (s.port p).seq = .idle →
    ((∀ n, (b, n) ∉ lengthTable) → ∃ e, exec (.dataWrite p b) s = .next (s.setPort p { s.port p with
      seqErr := false, seq := .reply, result := some ⟨[0x01], 0⟩, collected := [], expected := e,
      interByteTimer := false, request := false, fence := none })) ∧
    ((b, some 1) ∈ lengthTable → exec (.dataWrite p b) s = .next (s.setPort p { s.port p with
      seqErr := false, seq := .pending, collected := [b], expected := some 1, interByteTimer := false,
      request := true })) ∧
    (∀ n, (b, n) ∈ lengthTable → n ≠ some 1 → exec (.dataWrite p b) s = .next (s.setPort p { s.port p with
      seqErr := false, seq := .collecting, collected := [b], expected := n, interByteTimer := true }))

/-- A data write taken in COLLECTING appends the byte and restarts the timer; the byte that completes the
command takes the port to PENDING (R124). The fourth byte of a LOAD_VALUES fixes its length, or sends
the port to REPLY with BAD_LENGTH (R125); the expected length after that is left open (log 10). -/
def Obligations.DataWriteInCollectingCollects : Prop :=
  ∀ p b s, (s.port p).seq = .collecting →
    (∀ n, (s.port p).expected = some n → (s.port p).collected.length + 1 ≠ n →
      exec (.dataWrite p b) s = .next (s.setPort p { s.port p with
        collected := (s.port p).collected ++ [b], interByteTimer := true })) ∧
    (∀ n, (s.port p).expected = some n → (s.port p).collected.length + 1 = n →
      exec (.dataWrite p b) s = .next (s.setPort p { s.port p with
        collected := (s.port p).collected ++ [b], interByteTimer := false, seq := .pending, request := true })) ∧
    ((s.port p).expected = none → (s.port p).collected.length + 1 ≠ 4 →
      exec (.dataWrite p b) s = .next (s.setPort p { s.port p with
        collected := (s.port p).collected ++ [b], interByteTimer := true })) ∧
    ((s.port p).expected = none → (s.port p).collected.length + 1 = 4 → 1 ≤ b.toNat → b.toNat ≤ 16 →
      exec (.dataWrite p b) s = .next (s.setPort p { s.port p with
        collected := (s.port p).collected ++ [b], interByteTimer := true, expected := some (4 + 3 * b.toNat) })) ∧
    ((s.port p).expected = none → (s.port p).collected.length + 1 = 4 → (b.toNat = 0 ∨ 17 ≤ b.toNat) →
      ∃ e, exec (.dataWrite p b) s = .next (s.setPort p { s.port p with
        collected := [], expected := e, interByteTimer := false, request := false, fence := none,
        seq := .reply, result := some ⟨[0x02], 0⟩ }))

/-- A data write taken in PENDING, WAITING or REPLY is discarded and sets SEQERR; nothing else changes
(R133). -/
def Obligations.DataWriteOutOfPhaseIsDiscarded : Prop :=
  ∀ p b s, (s.port p).seq ∈ [SeqState.pending, .waiting, .reply] →
    exec (.dataWrite p b) s = .next (s.setPort p { s.port p with seqErr := true })

/-- A data read taken in REPLY drives the byte at the read position and advances it; the read of the
last byte takes the port to IDLE and discards the result (R131). -/
def Obligations.DataReadInReplyDeliversByte : Prop :=
  ∀ p s bytes k x, (s.port p).seq = .reply → (s.port p).result = some ⟨bytes, k⟩ → bytes[k]? = some x →
    (k + 1 < bytes.length → exec (.dataRead p) s = .next (s.setPort p { s.port p with
      lastRead := some x, result := some ⟨bytes, k + 1⟩ })) ∧
    (k + 1 = bytes.length → exec (.dataRead p) s = .next (s.setPort p { s.port p with
      lastRead := some x, result := none, seq := .idle }))

/-- A data read taken in IDLE, COLLECTING, PENDING or WAITING drives 0x00, sets SEQERR and changes nothing
else; 0x00 is also the value of OK, and READY with OUTBOUND in the status byte tells the two apart
(R134). Both strobes low together: neither access is taken, and SEQERR is set (R119). The byte driven is
in the model's record of it (log 7). -/
def Obligations.ReadOutOfPhaseAndStrobeConflictSetSeqErr : Prop :=
  (∀ p s, (s.port p).seq ≠ .reply →
    exec (.dataRead p) s = .next (s.setPort p { s.port p with lastRead := some 0x00, seqErr := true }) ∧
    resultByte .ok = 0x00 ∧ ¬ ((s.statusByte p).getLsbD 0 = true ∧ (s.statusByte p).getLsbD 1 = true)) ∧
  ∀ p s, exec (.strobeConflict p) s = .next (s.setPort p { s.port p with seqErr := true })

/-- The inter-byte timer of a COLLECTING port expires: the collected bytes are discarded and the port goes
to REPLY with TIMEOUT, with no grant request (R126). The expected length after it is left open
(log 10). -/
def Obligations.InterByteTimerExpiryAnswersTimeout : Prop :=
  ∀ p s, (s.port p).seq = .collecting → (s.port p).interByteTimer = true →
    ∃ e, exec (.interByteTimerExpiry p) s = .next (s.setPort p { s.port p with
      seq := .reply, result := some ⟨[0x03], 0⟩, collected := [], expected := e, interByteTimer := false,
      request := false, fence := none })

/-- A control write sets both enables to bits 1 and 2 of its byte, whatever bits 3 to 7 hold. Without
PORT_RESET (bit 0) it changes nothing else. With it, the port takes the values of Table 6-2: back to IDLE,
everything in progress discarded, SEQERR clear, the notice set empty, the mask kept, the interrupt line
low; nothing else in the part changes (R137, R139, R174). A write of 0x00 lowers the line, and the status
byte does not report the enables. -/
def Obligations.ControlWriteSetsEnablesAndResets : Prop :=
  ∀ p b s,
    (b.getLsbD 0 = false → ∃ t, exec (.interruptEnables p b) s = .next t ∧
      t = s.setPort p { s.port p with resultIrqEn := b.getLsbD 1, noticeIrqEn := b.getLsbD 2 } ∧
      (b = 0x00 → t.irq p = false) ∧ ∀ q, t.statusByte q = s.statusByte q) ∧
    (b.getLsbD 0 = true → ∃ t, exec (.portReset p b) s = .next t ∧
      t = s.setPort p ⟨.idle, [], none, false, false, none, none, false, b.getLsbD 1, b.getLsbD 2, [],
        (s.port p).mask, (s.port p).lastRead⟩ ∧
      t.irq p = false)

/-- The status byte: bits 0 to 3 as Table 9-4 gives for the sequencer state, 0x10 added while the notice
set is not empty, 0x20 while SEQERR is set and 0x40 at the control port (R136, R173). -/
def Obligations.StatusByteReportsPort : Prop :=
  ∀ (s : State) p, (s.statusByte p).toNat =
    (match (s.port p).seq with
      | .idle => 0x01
      | .collecting => 0x05
      | .pending => 0x04
      | .waiting => 0x0C
      | .reply => 0x07) +
    (if (s.port p).notices = [] then 0 else 0x10) + (if (s.port p).seqErr then 0x20 else 0) +
    (if s.controlPort = p then 0x40 else 0)

/-- The interrupt output is high exactly while the result condition or the notice condition holds
(R138). -/
def Obligations.InterruptLineFollowsConditions : Prop :=
  ∀ (s : State) p, s.irq p = true ↔
    ((s.port p).resultIrqEn = true ∧ (s.port p).seq = .reply ∧ ∃ bytes, (s.port p).result = some ⟨bytes, 0⟩) ∨
    ((s.port p).noticeIrqEn = true ∧ (s.port p).notices ≠ [])

/-- A held result stays as it was made, with its read position, under every command but a data read or a
control write of its own port, and a part reset (R131). The premise is the invariant that
StepKeepsPortsOk keeps. -/
def Obligations.HeldResultIsNotDisturbed : Prop :=
  ∀ i p s t, PortsOk s → (s.port p).seq = .reply → exec i s = .next t → i ≠ .dataRead p →
    (∀ b, i ≠ .portReset p b) → (∀ b, i ≠ .interruptEnables p b) → (∀ k, i ≠ .partReset k) →
    (t.port p).seq = .reply ∧ (t.port p).result = (s.port p).result

/-! ## Raster and scan-out -/

/-- FRAME_START: the line counter becomes 0, the blanked flag is cleared, the line selection is made for
line 0 from the band table as it stands, and a commit under way gets a cut pending; nothing else
changes (R103, R87). -/
def Obligations.FrameStartOpensFrame : Prop :=
  ∀ s, exec .frameStart s = .next { s with
    scan := { s.scan with line := 0, blanked := false, selection := selectLine s.display.bands 0 }
    commit := { s.commit with
      cutPending := if s.commit.state = .applying then true else s.commit.cutPending } }

/-- LINE_START: the line counter rises by 1, held at 2047, and the line selection is made for the new
line; nothing else changes (R104). The premise is part of the invariant that StepKeepsConfigOk
keeps. -/
def Obligations.LineStartOpensLine : Prop :=
  ∀ s, s.scan.line ≤ 2047 → exec .lineStart s = .next { s with
    scan := { s.scan with
      line := min (s.scan.line + 1) 2047
      selection := selectLine s.display.bands (min (s.scan.line + 1) 2047) } }

/-- BLANK_START: the blanked flag is set, the commit timer restarts with the present interval or stays
stopped if it is 0, the raster idle flag is cleared; in IDLE with batches a commit begins, in APPLYING a
pending cut is withdrawn; nothing else changes (R83, R105). -/
def Obligations.BlankStartOpensBlanking : Prop :=
  ∀ s, ∃ t, exec .blankStart s = .next t ∧
    t = { s with scan := { s.scan with blanked := true }, commit := t.commit } ∧
    t.commit.rasterIdle = false ∧ t.commit.appliedMark = s.commit.appliedMark ∧
    t.commit.timer = (if s.config.interval = 0 then .stopped else .running s.config.interval) ∧
    (s.commit.state = .idle → s.queue = [] →
      t.commit.state = .idle ∧ t.commit.served = s.commit.served ∧ t.commit.cutPending = s.commit.cutPending) ∧
    (s.commit.state = .idle → s.queue ≠ [] →
      t.commit.state = .applying ∧ t.commit.served = ⟨false, false⟩ ∧ t.commit.cutPending = false) ∧
    (s.commit.state = .applying →
      t.commit.state = .applying ∧ t.commit.served = s.commit.served ∧ t.commit.cutPending = false)

/-- The band selection: the enabled band with the greatest first line not greater than the line counter,
of equals the one with the lowest number; its map slot and index base are recorded; with no such band,
none, and then every pixel has the display blank colour (R108). -/
def Obligations.BandSelectionChoosesLatestBand : Prop :=
  ∀ (bands : Vector Band 4) (line : Nat),
    (∀ sel, selectLine bands line = some sel ↔ ∃ k : BandNo,
      bands[k].enabled = true ∧ bands[k].firstLine ≤ line ∧ sel = ⟨bands[k].slot, bands[k].base⟩ ∧
      (∀ j : BandNo, bands[j].enabled = true → bands[j].firstLine ≤ line →
        bands[j].firstLine < bands[k].firstLine ∨ (bands[j].firstLine = bands[k].firstLine ∧ k ≤ j))) ∧
    (selectLine bands line = none ↔ ∀ j : BandNo, bands[j].enabled = true → line < bands[j].firstLine) ∧
    ∀ (d : Display) (sc : Scan) (x : Byte) (v : Bool), sc.selection = none → pixelColour d sc x v = d.blank

/-- A pixel event produces the one colour that the first condition of Table 5-4 to hold decides, from the
display copies and the scan-out state alone, and changes nothing but the output; the effective index is
the pixel index plus the index base modulo 256 (R111, R112). In the model's record of the output (log 5)
the colour produced is the newest, and the four newest before it each grow older by one; the output shows
the colour produced four pixel events before, and holds the newest if PIXCLK stops (R102). -/
def Obligations.PixelEventProducesColour : Prop :=
  ∀ (s : State) (x : Byte) (v : Bool), ∃ t, exec (.pixelEvent x v) s = .next t ∧
    t = { s with scan := { s.scan with output := t.scan.output } } ∧
    t.scan.output = ⟨t.heldColour, s.scan.output.newest, s.scan.output.age1, s.scan.output.age2, s.scan.output.age3⟩ ∧
    t.delayedColour = s.scan.output.age3 ∧
    (s.scan.blanked = true → t.heldColour = s.display.blank) ∧
    (s.scan.blanked = false → s.scan.selection = none → t.heldColour = s.display.blank) ∧
    (s.scan.blanked = false → v = false → t.heldColour = s.display.blank) ∧
    (∀ n base, s.scan.blanked = false → s.scan.selection = some ⟨n, base⟩ → v = true →
      (s.display.slots[n].shown = false → t.heldColour = s.display.blank) ∧
      (s.display.slots[n].shown = true →
        (s.display.slots[n].size.entries ≤ (x.toNat + base.toNat) % 256 →
          t.heldColour = s.display.slots[n].fallback) ∧
        ((x.toNat + base.toNat) % 256 < s.display.slots[n].size.entries →
          (s.display.slots[n].entries.getD ((x.toNat + base.toNat) % 256) none = none →
            t.heldColour = s.display.slots[n].fallback) ∧
          (∀ c, s.display.slots[n].entries.getD ((x.toNat + base.toNat) % 256) none = some c →
            t.heldColour = s.display.cells[c]))))

/-! ## The commit unit -/

/-- COMMIT_TIMER_EXPIRY of a running timer: the timer restarts; a clear raster idle flag is set and
RASTER_IDLE raised at both ports; in IDLE with batches a commit begins; in APPLYING the commit goes on
and a pending cut stays; nothing else changes (R92). -/
def Obligations.CommitTimerExpiryRestartsAndBegins : Prop :=
  ∀ s k, s.commit.timer = .running k → ∃ t, exec .commitTimerExpiry s = .next t ∧
    t = { s with commit := t.commit, portA := t.portA, portB := t.portB } ∧
    t.commit.timer = (if s.config.interval = 0 then .stopped else .running s.config.interval) ∧
    t.commit.rasterIdle = true ∧ t.commit.appliedMark = s.commit.appliedMark ∧
    (∀ q, t.port q = { s.port q with notices := (t.port q).notices }) ∧
    Raised s t (fun _ => !s.commit.rasterIdle) .rasterIdle ∧
    (s.commit.state = .idle → s.queue ≠ [] →
      t.commit.state = .applying ∧ t.commit.served = ⟨false, false⟩ ∧ t.commit.cutPending = false) ∧
    (s.commit.state = .applying ∨ s.queue = [] →
      t.commit.state = s.commit.state ∧ t.commit.served = s.commit.served ∧
        t.commit.cutPending = s.commit.cutPending)

/-- BATCH_APPLIED: all edits of the head batch take effect together on the display copies, as they would
one by one in order (R76), each of the seven kinds as Table 4-1 gives (R17, R40 to R42, R116, R117), and a
MAP_CLOSE takes its DRAINING slot to CLOSED; the batch leaves the queue and its number is the applied
mark; its port joins the ports served and the fences equal to its number are satisfied with OK and the
mark; then the commit ends, if a cut is pending or the queue is empty, with COMMIT_DONE at the ports
served, or goes on (R85, R89, R98). The ports served and the cut pending mark after the end of a commit are
the model's (log 9). -/
def Obligations.BatchAppliedAppliesHeadBatch : Prop :=
  (∀ d : Display, d.applyEdits [] = d) ∧
  (∀ (d : Display) e es, ∃ d', EditEffect d d' e ∧ d.applyEdits (e :: es) = d'.applyEdits es) ∧
  ∀ s b rest, s.commit.state = .applying → s.queue = b :: rest → ∃ t, exec .batchApplied s = .next t ∧
    t = { s with
      display := s.display.applyEdits b.edits, slots := t.slots, queue := rest, commit := t.commit,
      portA := t.portA, portB := t.portB } ∧
    (∀ n, t.slot n = if .mapClose n ∈ b.edits ∧ (s.slot n).state = .draining then
        { s.slot n with state := .closed, owner := none, entries := [] } else s.slot n) ∧
    t.commit = { s.commit with
      appliedMark := b.number
      served := ⟨s.commit.served.a || b.port = .a, s.commit.served.b || b.port = .b⟩
      state := if s.commit.cutPending = true ∨ rest = [] then .idle else .applying } ∧
    ∀ q, t.port q = { (if (s.port q).fence = some b.number then { s.port q with
          seq := .reply, result := some ⟨0x00 :: twoBytes b.number, 0⟩, fence := none, collected := [],
          expected := (t.port q).expected, interByteTimer := false, request := false } else s.port q) with
        notices := if (s.commit.cutPending = true ∨ rest = []) ∧ t.commit.served.has q = true then
            takeRaise (s.port q).mask (s.port q).notices (.commitDone b.number) else (s.port q).notices }

/-- COMMIT_WAIT: with a batch of the port in the queue the port goes to WAITING with the number of the
newest as its fence; with none it returns OK and the applied mark at once; nothing else changes
(R97). The expected length is left open (log 10). -/
def Obligations.CommitWaitFencesNewestBatch : Prop :=
  ∀ p s, Granted s p [0x20] →
    (∀ older b newer, s.queue = older ++ b :: newer → b.port = p → (∀ x ∈ newer, x.port ≠ p) →
      ∃ e, exec (.commitWait p) s = .next { s.setPort p { s.port p with
        seq := .waiting, fence := some b.number, result := none, collected := [], expected := e,
        interByteTimer := false, request := false } with lastGranted := p }) ∧
    ((∀ x ∈ s.queue, x.port ≠ p) → ∃ t, exec (.commitWait p) s = .next t ∧
      Answered s t p (0x00 :: twoBytes s.commit.appliedMark) ∧ EngineFrame s t p ∧ SameCells s t ∧
      t.slots = s.slots ∧ SameConfig s t ∧ SameQueue s t ∧ SameNotices s t)

/-! ## Notices -/

/-- Taking a raise: a present notice of the kind is brought up to date in its place, whatever the mask,
and every other notice stays; an absent kind that the mask enables is added at the tail; an absent kind
that it disables leaves no trace (R162). The update replaces the payload, but takes the union of the
slots of MAP_REVOKED (R163). -/
def Obligations.RaiseIsTakenBySet : Prop :=
  (∀ m l x, (∀ y ∈ l, noticeKind y ≠ noticeKind x) → m.enables (noticeKind x) = true → takeRaise m l x = l ++ [x]) ∧
  (∀ m l x, (∀ y ∈ l, noticeKind y ≠ noticeKind x) → m.enables (noticeKind x) = false → takeRaise m l x = l) ∧
  (∀ m before y after x, noticeKind y = noticeKind x → (∀ z ∈ before ++ after, noticeKind z ≠ noticeKind x) →
    takeRaise m (before ++ y :: after) x = before ++ updateNotice y x :: after) ∧
  (∀ old new, updateNotice (.commitDone old) (.commitDone new) = .commitDone new) ∧
  (∀ old new, updateNotice (.cellsLow old) (.cellsLow new) = .cellsLow new) ∧
  (∀ old new, updateNotice (.mapRevoked old) (.mapRevoked new) = .mapRevoked (old ||| new)) ∧
  updateNotice .rasterIdle .rasterIdle = .rasterIdle

/-- GET_NOTICE: the oldest notice is removed from the issuing port's set and returned as its kind code and
its payload in two bytes, or kind 0 with payload 0 if the set is empty; nothing else changes (R165,
R177). -/
def Obligations.GetNoticeReturnsOldest : Prop :=
  ∀ p s, Granted s p [0x21] → ∃ t, exec (.getNotice p) s = .next t ∧
    EngineFrame s t p ∧ SameCells s t ∧ t.slots = s.slots ∧ SameConfig s t ∧ SameQueue s t ∧
    (t.port p.other).notices = (s.port p.other).notices ∧ (∀ q, (t.port q).mask = (s.port q).mask) ∧
    ((s.port p).notices = [] → (t.port p).notices = [] ∧ Answered s t p [0x00, 0, 0, 0]) ∧
    (∀ x rest, (s.port p).notices = x :: rest → (t.port p).notices = rest ∧
      (∀ k, x = .commitDone k → Answered s t p (0x00 :: 1 :: twoBytes k)) ∧
      (∀ v, x = .mapRevoked v → Answered s t p [0x00, 2, 0, v]) ∧
      (∀ k, x = .cellsLow k → Answered s t p (0x00 :: 3 :: twoBytes k)) ∧
      (x = .rasterIdle → Answered s t p [0x00, 4, 0, 0]))

/-- SET_NOTICES: the issuing port's mask is replaced whole, each enable by its bit of Table 9-8; the
notices, and everything else, stay (R166). -/
def Obligations.SetNoticesReplacesMask : Prop :=
  ∀ p s b, Granted s p [0x22, b] → ∃ t, exec (.setNotices p) s = .next t ∧ Answered s t p [0x00] ∧
    EngineFrame s t p ∧ SameCells s t ∧ t.slots = s.slots ∧ SameConfig s t ∧ SameQueue s t ∧
    (t.port p).mask = ⟨b.getLsbD 0, b.getLsbD 1, b.getLsbD 2, b.getLsbD 3⟩ ∧
    (t.port p.other).mask = (s.port p.other).mask ∧ ∀ q, (t.port q).notices = (s.port q).notices

/-! ## Maps -/

/-- An accepted OPEN_MAP takes the lowest-numbered CLOSED slot, opens it for the issuing port with the
size, every entry UNBOUND, counts 0, fallback black and the quota kept, stages MAP_OPEN and returns OK
and the slot number (R29). -/
def Obligations.OpenMapTakesLowestClosedSlot : Prop :=
  ∀ p s code n size, Granted s p [0x01, code] →
    (code = 0 ∧ size = MapSize.s16 ∨ code = 1 ∧ size = MapSize.s64 ∨ code = 2 ∧ size = MapSize.s256) →
    (s.slot n).state = .closed → (∀ m, m < n → (s.slot m).state ≠ .closed) → hasRoom s 1 →
    ∃ t, exec (.openMap p) s = .next t ∧ Answered s t p [0x00, slotByte n] ∧ EngineFrame s t p ∧
      SlotBecomes s t n ⟨.opened, some p, size, (s.slot n).quota, 0, 0, ⟨0, 0, 0⟩, List.replicate size.entries none⟩ ∧
      SameCells s t ∧ SameConfig s t ∧ SameNotices s t ∧ Appended s t p [.mapOpen n size]

/-- A refused OPEN_MAP: BAD_ARGUMENT for a size code above 2, then NO_SLOT if no slot is CLOSED, then
STAGE_FULL if the queue lacks room for one batch of one edit; nothing changes (R28). -/
def Obligations.OpenMapRefusalsInOrder : Prop :=
  ∀ p s code, Granted s p [0x01, code] →
    (3 ≤ code.toNat → ∃ t, exec (.openMap p) s = .next t ∧ RefusedWith s t p 0x04) ∧
    (code.toNat ≤ 2 → (∀ n, (s.slot n).state ≠ .closed) → ∃ t, exec (.openMap p) s = .next t ∧
      RefusedWith s t p 0x10) ∧
    (code.toNat ≤ 2 → (∃ n, (s.slot n).state = .closed) → ¬ hasRoom s 1 → ∃ t, exec (.openMap p) s = .next t ∧
      RefusedWith s t p 0x0F)

/-- An accepted CLOSE_MAP performs the release walk over all entries in ascending order, leaves the slot
DRAINING with owner, size, quota and fallback kept and both counts 0, stages one MAP_CLOSE edit and
returns OK and the number of entries released (R14, R31, R32). -/
def Obligations.CloseMapReleasesEveryEntry : Prop :=
  ∀ p s n, TablesOk s → Granted s p [0x02, slotByte n] → ownsOpen s p n → hasRoom s 1 →
    ∃ t, exec (.closeMap p) s = .next t ∧
      Answered s t p (0x00 :: twoBytes ((s.slot n).entries.countP fun e => e.isSome)) ∧ EngineFrame s t p ∧
      EntriesReleased s t n (List.range (s.slot n).size.entries) ∧
      t.slot n = { s.slot n with
        state := .draining, privCount := 0, sharedCount := 0,
        entries := List.replicate (s.slot n).size.entries none } ∧
      SameConfig s t ∧ SameNotices s t ∧ Appended s t p [.mapClose n]

/-- An accepted FORCE_CLOSE from the control port closes the slot by the same walk whichever port owns it,
stages MAP_CLOSE with the control port as issuing port, and raises MAP_REVOKED naming the slot at the
owner (R32 to R34). -/
def Obligations.ForceCloseRevokesMap : Prop :=
  ∀ p s n o, TablesOk s → Granted s p [0x30, slotByte n] → s.controlPort = p → (s.slot n).state = .opened →
    (s.slot n).owner = some o → hasRoom s 1 →
    ∃ t, exec (.forceClose p) s = .next t ∧
      Answered s t p (0x00 :: twoBytes ((s.slot n).entries.countP fun e => e.isSome)) ∧ EngineFrame s t p ∧
      EntriesReleased s t n (List.range (s.slot n).size.entries) ∧
      t.slot n = { s.slot n with
        state := .draining, privCount := 0, sharedCount := 0,
        entries := List.replicate (s.slot n).size.entries none } ∧
      SameConfig s t ∧ Raised s t (fun q => q = o) (.mapRevoked (1#8 <<< n.val)) ∧ Appended s t p [.mapClose n]

/-- An accepted SET_FALLBACK sets the working fallback of the slot and stages MAP_FALLBACK (R37). -/
def Obligations.SetFallbackSetsWorkingFallback : Prop :=
  ∀ p s n v, Granted s p ([0x03, slotByte n] ++ colourOf v) → ownsOpen s p n → hasRoom s 1 →
    ∃ t, exec (.setFallback p) s = .next t ∧ Answered s t p [0x00] ∧ EngineFrame s t p ∧
      SlotBecomes s t n { s.slot n with fallback := v } ∧ SameCells s t ∧ SameConfig s t ∧ SameNotices s t ∧
      Appended s t p [.mapFallback n v]

/-- MAP_INFO reports the working part of a slot in any state, in the layout of Table 9-10, and changes
nothing (R39). -/
def Obligations.MapInfoReportsWorkingPart : Prop :=
  ∀ p s n, Granted s p [0x04, slotByte n] →
    ∃ t, exec (.mapInfo p) s = .next t ∧ EngineFrame s t p ∧ SameCells s t ∧ t.slots = s.slots ∧ SameConfig s t ∧
      SameQueue s t ∧ SameNotices s t ∧ ∃ state owner size : Byte,
        Answered s t p ([0x00, state, owner, size] ++ twoBytes (s.slot n).quota ++ twoBytes (s.slot n).privCount ++
          twoBytes (s.slot n).sharedCount ++ colourOf (s.slot n).fallback) ∧
        ((s.slot n).state = .closed → state = 0) ∧ ((s.slot n).state = .opened → state = 1) ∧
        ((s.slot n).state = .draining → state = 2) ∧ ((s.slot n).owner = none → owner = 0) ∧
        ((s.slot n).owner = some .a → owner = 1) ∧ ((s.slot n).owner = some .b → owner = 2) ∧
        ((s.slot n).size = .s16 → size = 0) ∧ ((s.slot n).size = .s64 → size = 1) ∧
        ((s.slot n).size = .s256 → size = 2)

/-- SET_QUOTA at the control port sets the quota of a slot in any state, if it is at most 512 and not
below the private count, and stages nothing; below the private count it is refused with QUOTA, and above
512 with BAD_ARGUMENT (R38). -/
def Obligations.SetQuotaSetsQuota : Prop :=
  ∀ p s n hi lo quota, Granted s p [0x31, slotByte n, hi, lo] → quota = hi.toNat * 256 + lo.toNat →
    s.controlPort = p →
    ((s.slot n).privCount ≤ quota → quota ≤ 512 → ∃ t, exec (.setQuota p) s = .next t ∧ Answered s t p [0x00] ∧
      EngineFrame s t p ∧ SlotBecomes s t n { s.slot n with quota := quota } ∧ SameCells s t ∧ SameConfig s t ∧
      SameQueue s t ∧ SameNotices s t) ∧
    (quota < (s.slot n).privCount → quota ≤ 512 → ∃ t, exec (.setQuota p) s = .next t ∧ RefusedWith s t p 0x0C) ∧
    (512 < quota → ∃ t, exec (.setQuota p) s = .next t ∧ RefusedWith s t p 0x04)

/-! ## Bindings -/

/-- An accepted ALLOC_SHARED of a value that a SHARED cell holds binds the entry to that cell, which gains
a holder, and stages ENTRY alone (R48). -/
def Obligations.AllocSharedReusesSharedCell : Prop :=
  ∀ p s n i v c h, TablesOk s → Granted s p ([0x10, slotByte n, i] ++ colourOf v) → ownsOpen s p n →
    i.toNat < (s.slot n).size.entries → s.entry n i.toNat = none → s.cell c = .shared v h → h < 255 → hasRoom s 1 →
    ∃ t, exec (.allocShared p) s = .next t ∧ Answered s t p (0x00 :: twoBytes c ++ [0]) ∧ EngineFrame s t p ∧
      t.cell c = .shared v (h + 1) ∧ (∀ d, d ≠ c → t.cell d = s.cell d) ∧ t.freeList = s.freeList ∧
      t.sharedIndex = s.sharedIndex ∧
      SlotBecomes s t n { s.slot n with
        entries := (s.slot n).entries.set i.toNat (some c), sharedCount := (s.slot n).sharedCount + 1 } ∧
      SameConfig s t ∧ SameNotices s t ∧ Appended s t p [.entry n i.toNat (some c)]

/-- An accepted ALLOC_SHARED of a value that no SHARED cell holds makes the cell at the head of the free
list SHARED with one holder, adds its pair to the index, binds the entry, stages CELL_VALUE then ENTRY,
and raises CELLS_LOW at both ports on a crossing of the watermark (R49, R72). -/
def Obligations.AllocSharedMakesSharedCell : Prop :=
  ∀ p s n i v c rest, TablesOk s → Granted s p ([0x10, slotByte n, i] ++ colourOf v) → ownsOpen s p n →
    i.toNat < (s.slot n).size.entries → s.entry n i.toNat = none → (∀ d h, s.cell d ≠ .shared v h) →
    s.freeList = c :: rest → hasRoom s 2 →
    ∃ t, exec (.allocShared p) s = .next t ∧ Answered s t p (0x00 :: twoBytes c ++ [1]) ∧ EngineFrame s t p ∧
      t.cell c = .shared v 1 ∧ (∀ d, d ≠ c → t.cell d = s.cell d) ∧ t.freeList = rest ∧
      (∀ x, x ∈ t.sharedIndex ↔ x = (v, c) ∨ x ∈ s.sharedIndex) ∧
      SlotBecomes s t n { s.slot n with
        entries := (s.slot n).entries.set i.toNat (some c), sharedCount := (s.slot n).sharedCount + 1 } ∧
      SameConfig s t ∧ LowCellsOffered s t ∧ Appended s t p [.cellValue c v, .entry n i.toNat (some c)]

/-- An accepted ALLOC_PRIVATE makes the cell at the head of the free list PRIVATE with the entry as owner,
binds the entry, stages CELL_VALUE then ENTRY, and raises CELLS_LOW at both ports on a crossing; at the
quota it is refused with QUOTA, and with an empty free list with NO_CELLS (R51, R52, R72). -/
def Obligations.AllocPrivateMakesPrivateCell : Prop :=
  ∀ p s n i v, Granted s p ([0x11, slotByte n, i] ++ colourOf v) → ownsOpen s p n →
    i.toNat < (s.slot n).size.entries → s.entry n i.toNat = none →
    (∀ c rest, (s.slot n).privCount < (s.slot n).quota → s.freeList = c :: rest → hasRoom s 2 →
      ∃ t, exec (.allocPrivate p) s = .next t ∧ Answered s t p (0x00 :: twoBytes c) ∧ EngineFrame s t p ∧
        t.cell c = .priv v n i.toNat ∧ (∀ d, d ≠ c → t.cell d = s.cell d) ∧ t.freeList = rest ∧
        t.sharedIndex = s.sharedIndex ∧
        SlotBecomes s t n { s.slot n with
          entries := (s.slot n).entries.set i.toNat (some c), privCount := (s.slot n).privCount + 1 } ∧
        SameConfig s t ∧ LowCellsOffered s t ∧ Appended s t p [.cellValue c v, .entry n i.toNat (some c)]) ∧
    ((s.slot n).privCount = (s.slot n).quota → ∃ t, exec (.allocPrivate p) s = .next t ∧ RefusedWith s t p 0x0C) ∧
    ((s.slot n).privCount < (s.slot n).quota → s.freeList = [] →
      ∃ t, exec (.allocPrivate p) s = .next t ∧ RefusedWith s t p 0x0D)

/-- An accepted ALLOC_RANGE gives each index of the range, ascending, the cell at the head of the free
list as a PRIVATE cell with the value, stages CELL_VALUE and ENTRY for each, and raises CELLS_LOW at both
ports on a crossing by its net change (R54, R72). -/
def Obligations.AllocRangeBindsEveryIndex : Prop :=
  ∀ p s n first count v, TablesOk s → Granted s p ([0x12, slotByte n, first, count] ++ colourOf v) →
    ownsOpen s p n → 1 ≤ count.toNat → count.toNat ≤ 16 → first.toNat + count.toNat ≤ (s.slot n).size.entries →
    (∀ k, k < count.toNat → s.entry n (first.toNat + k) = none) →
    (s.slot n).privCount + count.toNat ≤ (s.slot n).quota → count.toNat ≤ s.freeList.length →
    hasRoom s (2 * count.toNat) →
    ∃ t, exec (.allocRange p) s = .next t ∧ Answered s t p [0x00] ∧ EngineFrame s t p ∧
      (∀ k c, k < count.toNat → s.freeList[k]? = some c →
        t.cell c = .priv v n (first.toNat + k) ∧ t.entry n (first.toNat + k) = some c) ∧
      (∀ c, c ∉ s.freeList.take count.toNat → t.cell c = s.cell c) ∧
      (∀ i, (i < first.toNat ∨ first.toNat + count.toNat ≤ i) → t.entry n i = s.entry n i) ∧
      t.freeList = s.freeList.drop count.toNat ∧ t.sharedIndex = s.sharedIndex ∧
      SlotBecomes s t n { s.slot n with
        entries := (t.slot n).entries, privCount := (s.slot n).privCount + count.toNat } ∧
      SameConfig s t ∧ LowCellsOffered s t ∧
      Appended s t p (((s.freeList.take count.toNat).zipIdx first.toNat).flatMap fun x =>
        [.cellValue x.1 v, .entry n x.2 (some x.1)])

/-- An accepted STORE sets the working value of the PRIVATE cell that the entry owns, keeps its owner, and
stages CELL_VALUE (R12, R55). -/
def Obligations.StoreSetsPrivateValue : Prop :=
  ∀ p s n i v c old, Granted s p ([0x13, slotByte n, i] ++ colourOf v) → ownsOpen s p n →
    i.toNat < (s.slot n).size.entries → s.entry n i.toNat = some c → s.cell c = .priv old n i.toNat → hasRoom s 1 →
    ∃ t, exec (.store p) s = .next t ∧ Answered s t p [0x00] ∧ EngineFrame s t p ∧
      t.cell c = .priv v n i.toNat ∧ (∀ d, d ≠ c → t.cell d = s.cell d) ∧ t.freeList = s.freeList ∧
      t.sharedIndex = s.sharedIndex ∧ t.slots = s.slots ∧ SameConfig s t ∧ SameNotices s t ∧
      Appended s t p [.cellValue c v]

/-- An accepted LOAD_VALUES gives the colours, in order, to the PRIVATE cells of the run of entries, and
stages one CELL_VALUE per index in one batch (R57). -/
def Obligations.LoadValuesSetsRunOfValues : Prop :=
  ∀ p s n first (vs : List Colour) (cs : List CellNo),
    Granted s p ([0x14, slotByte n, first, BitVec.ofNat 8 vs.length] ++ vs.flatMap colourOf) → ownsOpen s p n →
    1 ≤ vs.length → vs.length ≤ 16 → cs.length = vs.length →
    first.toNat + vs.length ≤ (s.slot n).size.entries →
    (∀ k c, cs[k]? = some c → s.entry n (first.toNat + k) = some c ∧
      ∃ old, s.cell c = .priv old n (first.toNat + k)) →
    hasRoom s vs.length →
    ∃ t, exec (.loadValues p) s = .next t ∧ Answered s t p [0x00] ∧ EngineFrame s t p ∧
      (∀ k c v, cs[k]? = some c → vs[k]? = some v → t.cell c = .priv v n (first.toNat + k)) ∧
      (∀ c, c ∉ cs → t.cell c = s.cell c) ∧ t.freeList = s.freeList ∧ t.sharedIndex = s.sharedIndex ∧
      t.slots = s.slots ∧ SameConfig s t ∧ SameNotices s t ∧
      Appended s t p (List.zipWith .cellValue cs vs)

/-- An accepted RELEASE unbinds the entry, frees its PRIVATE cell or removes a holder of its SHARED cell,
stages ENTRY UNBOUND and returns OK and whether a cell joined the free list; of an UNBOUND entry it is
refused with UNBOUND (R59, R60). -/
def Obligations.ReleaseUnbindsEntry : Prop :=
  ∀ p s n i, TablesOk s → Granted s p [0x15, slotByte n, i] → ownsOpen s p n →
    i.toNat < (s.slot n).size.entries →
    (s.entry n i.toNat ≠ none → hasRoom s 1 → ∃ t, exec (.release p) s = .next t ∧
      Answered s t p [0x00, if freedInOrder s n [i.toNat] = [] then 0 else 1] ∧ EngineFrame s t p ∧
      EntriesReleased s t n [i.toNat] ∧
      t.slot n = { s.slot n with
        entries := (t.slot n).entries, privCount := (t.slot n).privCount, sharedCount := (t.slot n).sharedCount } ∧
      SameConfig s t ∧ SameNotices s t ∧ Appended s t p [.entry n i.toNat none]) ∧
    (s.entry n i.toNat = none → ∃ t, exec (.release p) s = .next t ∧ RefusedWith s t p 0x0A)

/-- An accepted RELEASE_RANGE releases the bound entries of the range in ascending order, skipping the
others, stages one ENTRY UNBOUND for each and returns OK and their number; with none bound it changes
nothing, stages nothing and is accepted whatever the occupancy of the queue (R62, R63). -/
def Obligations.ReleaseRangeUnbindsBoundEntries : Prop :=
  ∀ p s n first count (is : List Nat), TablesOk s → Granted s p [0x16, slotByte n, first, count] → ownsOpen s p n →
    1 ≤ count.toNat → count.toNat ≤ 16 → first.toNat + count.toNat ≤ (s.slot n).size.entries →
    is = (List.range' first.toNat count.toNat).filter (fun i => (s.entry n i).isSome) →
    (is ≠ [] → hasRoom s is.length → ∃ t, exec (.releaseRange p) s = .next t ∧
      Answered s t p [0x00, BitVec.ofNat 8 is.length] ∧ EngineFrame s t p ∧ EntriesReleased s t n is ∧
      t.slot n = { s.slot n with
        entries := (t.slot n).entries, privCount := (t.slot n).privCount, sharedCount := (t.slot n).sharedCount } ∧
      SameConfig s t ∧ SameNotices s t ∧ Appended s t p (is.map fun i => .entry n i none)) ∧
    (is = [] → ∃ t, exec (.releaseRange p) s = .next t ∧ Answered s t p [0x00, 0] ∧ EngineFrame s t p ∧
      SameCells s t ∧ t.slots = s.slots ∧ SameConfig s t ∧ SameNotices s t ∧ SameQueue s t)

/-- An accepted FREEZE where a SHARED cell holds the value merges the entry into it: the entry is rebound,
that cell gains a holder, the private cell joins the tail of the free list, ENTRY is staged (R11,
R65). -/
def Obligations.FreezeMergesIntoSharedCell : Prop :=
  ∀ p s n i v c x h, TablesOk s → Granted s p [0x17, slotByte n, i] → ownsOpen s p n →
    i.toNat < (s.slot n).size.entries → s.entry n i.toNat = some c → s.cell c = .priv v n i.toNat →
    s.cell x = .shared v h → h < 255 → hasRoom s 1 →
    ∃ t, exec (.freeze p) s = .next t ∧ Answered s t p (0x00 :: twoBytes x ++ [1]) ∧ EngineFrame s t p ∧
      t.cell x = .shared v (h + 1) ∧ t.cell c = .free ∧ (∀ d, d ≠ c → d ≠ x → t.cell d = s.cell d) ∧
      t.freeList = s.freeList ++ [c] ∧ t.sharedIndex = s.sharedIndex ∧
      SlotBecomes s t n { s.slot n with
        entries := (s.slot n).entries.set i.toNat (some x), privCount := (s.slot n).privCount - 1,
        sharedCount := (s.slot n).sharedCount + 1 } ∧
      SameConfig s t ∧ SameNotices s t ∧ Appended s t p [.entry n i.toNat (some x)]

/-- An accepted FREEZE where no SHARED cell holds the value turns the private cell SHARED in place with
one holder, adds its pair to the index and stages nothing, whatever the occupancy of the queue (R10,
R66). -/
def Obligations.FreezeTurnsCellSharedInPlace : Prop :=
  ∀ p s n i v c, TablesOk s → Granted s p [0x17, slotByte n, i] → ownsOpen s p n →
    i.toNat < (s.slot n).size.entries → s.entry n i.toNat = some c → s.cell c = .priv v n i.toNat →
    (∀ d h, s.cell d ≠ .shared v h) →
    ∃ t, exec (.freeze p) s = .next t ∧ Answered s t p (0x00 :: twoBytes c ++ [0]) ∧ EngineFrame s t p ∧
      t.cell c = .shared v 1 ∧ (∀ d, d ≠ c → t.cell d = s.cell d) ∧ t.freeList = s.freeList ∧
      (∀ x, x ∈ t.sharedIndex ↔ x = (v, c) ∨ x ∈ s.sharedIndex) ∧
      SlotBecomes s t n { s.slot n with
        privCount := (s.slot n).privCount - 1, sharedCount := (s.slot n).sharedCount + 1 } ∧
      SameConfig s t ∧ SameNotices s t ∧ SameQueue s t

/-! ## Reports -/

/-- QUERY_INDEX of an entry of an OPEN or DRAINING slot reports the working binding and the display
binding, with zeros for what is absent, and changes nothing (R68 to R70, R172). -/
def Obligations.QueryIndexReportsBothBindings : Prop :=
  ∀ p s n i, Granted s p [0x18, slotByte n, i] → (s.slot n).state ≠ .closed →
    i.toNat < (s.slot n).size.entries →
    ∃ t w d, exec (.queryIndex p) s = .next t ∧ Answered s t p (0x00 :: w ++ d) ∧ EngineFrame s t p ∧
      SameCells s t ∧ t.slots = s.slots ∧ SameConfig s t ∧ SameQueue s t ∧ SameNotices s t ∧
      (s.entry n i.toNat = none → w = [0, 0, 0, 0, 0, 0]) ∧
      (∀ c v h, s.entry n i.toNat = some c → s.cell c = .shared v h → w = 1 :: twoBytes c ++ colourOf v) ∧
      (∀ c v m j, s.entry n i.toNat = some c → s.cell c = .priv v m j → w = 2 :: twoBytes c ++ colourOf v) ∧
      (s.display.slots[n].shown = false ∨ s.display.slots[n].size.entries ≤ i.toNat ∨
        s.display.slots[n].entries.getD i.toNat none = none → d = [0, 0, 0, 0, 0, 0]) ∧
      (∀ c, s.display.slots[n].shown = true → i.toNat < s.display.slots[n].size.entries →
        s.display.slots[n].entries.getD i.toNat none = some c →
        d = 1 :: twoBytes c ++ colourOf s.display.cells[c])

/-- FIND_VALUE reports the SHARED cell that holds the value with its holders, or zeros; PRIVATE cells are
not searched, and nothing changes (R16, R71). -/
def Obligations.FindValueReportsSharedCell : Prop :=
  ∀ p s v, TablesOk s → Granted s p (0x19 :: colourOf v) →
    ∃ t r, exec (.findValue p) s = .next t ∧ Answered s t p (0x00 :: r) ∧ EngineFrame s t p ∧ SameCells s t ∧
      t.slots = s.slots ∧ SameConfig s t ∧ SameQueue s t ∧ SameNotices s t ∧
      (∀ c h, s.cell c = .shared v h → r = 1 :: twoBytes c ++ [BitVec.ofNat 8 h]) ∧
      ((∀ c h, s.cell c ≠ .shared v h) → r = [0, 0, 0, 0])

/-- READ_STATE returns the counts, the occupancy of the queue, the applied mark, the next batch number and
the flags in the layout of Table 9-11, each two-byte number high byte first (R171), and changes nothing;
the three counts of cells sum to 512 (R19, R158, R159). A number up to 65535 in two bytes is the first
times 256 plus the second. -/
def Obligations.ReadStateReportsOccupancy : Prop :=
  (∀ p s free shared priv mark next, Granted s p [0x23] → free = s.freeList.length → shared = s.sharedIndex.length →
    priv = (List.finRange 512).countP (isPriv s) → mark = s.commit.appliedMark → next = s.nextBatch →
    ∃ t, exec (.readState p) s = .next t ∧
      Answered s t p [0x00, BitVec.ofNat 8 (free / 256), BitVec.ofNat 8 (free % 256),
        BitVec.ofNat 8 (shared / 256), BitVec.ofNat 8 (shared % 256),
        BitVec.ofNat 8 (priv / 256), BitVec.ofNat 8 (priv % 256),
        BitVec.ofNat 8 (s.queue.map fun b => b.edits.length).sum, BitVec.ofNat 8 s.queue.length,
        BitVec.ofNat 8 (mark / 256), BitVec.ofNat 8 (mark % 256),
        BitVec.ofNat 8 (next / 256), BitVec.ofNat 8 (next % 256),
        BitVec.ofNat 8 ((if s.commit.rasterIdle then 1 else 0) + (if s.commit.state = .applying then 2 else 0) +
          (if s.controlPort = p then 4 else 0))] ∧
      EngineFrame s t p ∧ SameCells s t ∧ t.slots = s.slots ∧ SameConfig s t ∧ SameQueue s t ∧ SameNotices s t) ∧
  (∀ s, TablesOk s → s.freeList.length + s.sharedIndex.length + (List.finRange 512).countP (isPriv s) = 512) ∧
  ∀ k, k ≤ 65535 → ∃ hi lo : Byte, twoBytes k = [hi, lo] ∧ hi.toNat * 256 + lo.toNat = k

/-! ## Screen and configuration -/

/-- An accepted SET_BAND stages one BAND edit that carries the whole record, and changes nothing else
(R115). -/
def Obligations.SetBandStagesRecord : Prop :=
  ∀ p s k n enable hi lo base, Granted s p [0x32, BitVec.ofNat 8 (k : BandNo).val, enable, hi, lo, slotByte n, base] →
    s.controlPort = p → hi.toNat * 256 + lo.toNat ≤ 2047 → hasRoom s 1 →
    ∃ t, exec (.setBand p) s = .next t ∧ Answered s t p [0x00] ∧ EngineFrame s t p ∧ SameCells s t ∧
      t.slots = s.slots ∧ SameConfig s t ∧ SameNotices s t ∧
      Appended s t p [.band k ⟨enable ≠ 0, hi.toNat * 256 + lo.toNat, n, base⟩]

/-- An accepted SET_CONFIG sets the commit interval and the watermark and restarts the commit timer with
the new interval, or stops it when that is 0; it stages nothing and raises nothing (R94, R156). -/
def Obligations.SetConfigSetsIntervalAndWatermark : Prop :=
  ∀ p s interval hi lo, Granted s p [0x33, interval, hi, lo] → s.controlPort = p →
    hi.toNat * 256 + lo.toNat ≤ 512 →
    ∃ t, exec (.setConfig p) s = .next t ∧ Answered s t p [0x00] ∧ EngineFrame s t p ∧ SameCells s t ∧
      t.slots = s.slots ∧ SameQueue s t ∧ SameNotices s t ∧
      t.config = ⟨interval.toNat, hi.toNat * 256 + lo.toNat, s.config.blank⟩ ∧
      t.commit = { s.commit with timer := if interval = 0 then .stopped else .running interval.toNat }

/-- An accepted SET_BLANK sets the working blank colour and stages BLANK with it (R117). -/
def Obligations.SetBlankSetsWorkingBlank : Prop :=
  ∀ p s v, Granted s p (0x34 :: colourOf v) → s.controlPort = p → hasRoom s 1 →
    ∃ t, exec (.setBlank p) s = .next t ∧ Answered s t p [0x00] ∧ EngineFrame s t p ∧ SameCells s t ∧
      t.slots = s.slots ∧ t.config = { s.config with blank := v } ∧ t.commit = s.commit ∧ SameNotices s t ∧
      Appended s t p [.blank v]

/-! ## The engine -/

/-- The grant: one raised request is granted whichever port was granted last, of two the port not granted
last, and with none raised no port (R146). -/
def Obligations.GrantIsRoundRobin : Prop :=
  ∀ (s : State) p, (s.grantedPort = some p ↔
      (s.port p).request = true ∧ ((s.port p.other).request = true → s.lastGranted = p.other)) ∧
    (s.grantedPort = none ↔ ∀ q, (s.port q).request = false)

/-- Every granted command is answered: refused, with the result code alone and nothing else changed, or
accepted, with OK and the result length of Table 6-5, or, for COMMIT_WAIT, held in WAITING; in each case
the granted port becomes the last-granted port (R129, R132, R151). -/
def Obligations.EveryGrantIsAnswered : Prop :=
  ∀ c p s cmd, Granted s p cmd → byteAt cmd 1 = codeOf c →
    ∃ t, exec (commandRow c p) s = .next t ∧ t.lastGranted = p ∧ EngineFrame s t p ∧
      ((∃ code, code ≠ ResultCode.ok ∧ RefusedWith s t p (resultByte code)) ∨
        (∃ fields, fields.length + 1 = okLength c ∧ Answered s t p (0x00 :: fields)) ∨
        (c = .commitWait ∧ (t.port p).seq = .waiting ∧ (t.port p).result = none))

/-- An execution appends one batch for the issuing port, of 1 to 32 edits that fit the queue, with the
next batch number, or leaves the queue and the number as they were (R75, R77, R79). The premise is the
invariant that StepKeepsPortsOk keeps. CLOSE_MAP, SET_FALLBACK, FORCE_CLOSE, SET_BAND and SET_BLANK, having
passed every earlier check, are refused with STAGE_FULL where the queue has no room for one batch of one
edit, and then nothing changes (R79); OpenMapRefusalsInOrder and BindingRefusesByEntryAndResource say so of
the other commands that append. -/
def Obligations.EngineAppendsOneFittingBatch : Prop :=
  (∀ c p s t, PortsOk s → exec (commandRow c p) s = .next t →
    SameQueue s t ∨ ∃ edits, 1 ≤ edits.length ∧ edits.length ≤ 32 ∧ hasRoom s edits.length ∧ Appended s t p edits) ∧
  ∀ p s cmd, Granted s p cmd → ¬ hasRoom s 1 →
    (∀ n, byteAt cmd 2 = slotByte n →
      (byteAt cmd 1 = 0x02 → ownsOpen s p n → Refuses (.closeMap p) s p 0x0F) ∧
      (byteAt cmd 1 = 0x03 → ownsOpen s p n → Refuses (.setFallback p) s p 0x0F) ∧
      (byteAt cmd 1 = 0x30 → s.controlPort = p → (s.slot n).state = .opened → Refuses (.forceClose p) s p 0x0F)) ∧
    (byteAt cmd 1 = 0x32 → (byteAt cmd 2).toNat < 4 → wordAt cmd 4 ≤ 2047 → (byteAt cmd 6).toNat < 8 →
      s.controlPort = p → Refuses (.setBand p) s p 0x0F) ∧
    (byteAt cmd 1 = 0x34 → s.controlPort = p → Refuses (.setBlank p) s p 0x0F)

/-- The checks of Table 7-3 up to BAD_INDEX, in order, for the commands of maps and entries; each refusal
changes nothing (R31, R37, R39, R44 to R46, R68). A binding command: a slot above 7 or a range count outside
1..16 gives BAD_ARGUMENT, then a slot that is not OPEN BAD_MAP, then a foreign owner NOT_OWNER, then an index
or range beyond the size BAD_INDEX. CLOSE_MAP and SET_FALLBACK: BAD_ARGUMENT, BAD_MAP, NOT_OWNER. MAP_INFO:
BAD_ARGUMENT. QUERY_INDEX, with no ownership check: BAD_ARGUMENT, BAD_MAP on a CLOSED slot alone,
BAD_INDEX. -/
def Obligations.BindingChecksInOrder : Prop :=
  (∀ c p s cmd, isBinding c = true → Granted s p cmd → byteAt cmd 1 = codeOf c →
    (8 ≤ (byteAt cmd 2).toNat ∨ (c = .allocRange ∨ c = .releaseRange) ∧
        ((byteAt cmd 4).toNat = 0 ∨ 17 ≤ (byteAt cmd 4).toNat) → Refuses (commandRow c p) s p 0x04) ∧
    (∀ n, byteAt cmd 2 = slotByte n →
      ((c = .allocRange ∨ c = .releaseRange) → 1 ≤ (byteAt cmd 4).toNat ∧ (byteAt cmd 4).toNat ≤ 16) →
      ((s.slot n).state ≠ .opened → Refuses (commandRow c p) s p 0x06) ∧
      ((s.slot n).state = .opened → (s.slot n).owner ≠ some p → Refuses (commandRow c p) s p 0x07) ∧
      (ownsOpen s p n → (s.slot n).size.entries < (byteAt cmd 3).toNat +
          (if isRange c = true then (byteAt cmd 4).toNat else 1) → Refuses (commandRow c p) s p 0x08))) ∧
  (∀ c p s cmd, c ∈ [Command.closeMap, .setFallback] → Granted s p cmd → byteAt cmd 1 = codeOf c →
    (8 ≤ (byteAt cmd 2).toNat → Refuses (commandRow c p) s p 0x04) ∧
    (∀ n, byteAt cmd 2 = slotByte n →
      ((s.slot n).state ≠ .opened → Refuses (commandRow c p) s p 0x06) ∧
      ((s.slot n).state = .opened → (s.slot n).owner ≠ some p → Refuses (commandRow c p) s p 0x07))) ∧
  ∀ p s cmd, Granted s p cmd →
    (byteAt cmd 1 = 0x04 → 8 ≤ (byteAt cmd 2).toNat → Refuses (.mapInfo p) s p 0x04) ∧
    (byteAt cmd 1 = 0x18 → 8 ≤ (byteAt cmd 2).toNat → Refuses (.queryIndex p) s p 0x04) ∧
    (byteAt cmd 1 = 0x18 → ∀ n, byteAt cmd 2 = slotByte n →
      ((s.slot n).state = .closed → Refuses (.queryIndex p) s p 0x06) ∧
      ((s.slot n).state ≠ .closed → (s.slot n).size.entries ≤ (byteAt cmd 3).toNat →
        Refuses (.queryIndex p) s p 0x08))

/-- A privileged command with an argument out of range is refused with BAD_ARGUMENT, from either port.
With its arguments in range, granted to the port that is not the control port, it is refused with
NOT_PERMITTED. FORCE_CLOSE from the control port is then refused with BAD_MAP for a slot that is not OPEN. In
each case nothing changes (R33, R38, R115, R148, R156). -/
def Obligations.PrivilegeIsTheControlPorts : Prop :=
  ∀ p s cmd, Granted s p cmd →
    (byteAt cmd 1 = 0x30 →
      (8 ≤ (byteAt cmd 2).toNat → Refuses (.forceClose p) s p 0x04) ∧
      ((byteAt cmd 2).toNat < 8 → s.controlPort ≠ p → Refuses (.forceClose p) s p 0x05) ∧
      (∀ n, byteAt cmd 2 = slotByte n → s.controlPort = p → (s.slot n).state ≠ .opened →
        Refuses (.forceClose p) s p 0x06)) ∧
    (byteAt cmd 1 = 0x31 →
      (8 ≤ (byteAt cmd 2).toNat ∨ 512 < wordAt cmd 3 → Refuses (.setQuota p) s p 0x04) ∧
      ((byteAt cmd 2).toNat < 8 → wordAt cmd 3 ≤ 512 → s.controlPort ≠ p → Refuses (.setQuota p) s p 0x05)) ∧
    (byteAt cmd 1 = 0x32 →
      (4 ≤ (byteAt cmd 2).toNat ∨ 2047 < wordAt cmd 4 ∨ 8 ≤ (byteAt cmd 6).toNat → Refuses (.setBand p) s p 0x04) ∧
      ((byteAt cmd 2).toNat < 4 → wordAt cmd 4 ≤ 2047 → (byteAt cmd 6).toNat < 8 → s.controlPort ≠ p →
        Refuses (.setBand p) s p 0x05)) ∧
    (byteAt cmd 1 = 0x33 →
      (512 < wordAt cmd 3 → Refuses (.setConfig p) s p 0x04) ∧
      (wordAt cmd 3 ≤ 512 → s.controlPort ≠ p → Refuses (.setConfig p) s p 0x05)) ∧
    (byteAt cmd 1 = 0x34 → s.controlPort ≠ p → Refuses (.setBlank p) s p 0x05)

/-- The entry and resource checks of the binding commands, once the slot and the index or range have
passed: BOUND for a bound entry of an allocation, UNBOUND for STORE, FREEZE and RELEASE, NOT_PRIVATE for
STORE and FREEZE, either of the two for LOAD_VALUES as its first failing index has it, QUOTA before
NO_CELLS, SHARE_LIMIT at 255 holders; and, with every earlier check passed, STAGE_FULL where the queue has no
room for one batch of the edits that the command needs; each refusal changes nothing (R47, R51, R53, R55,
R56, R59, R62, R64, R79). -/
def Obligations.BindingRefusesByEntryAndResource : Prop :=
  ∀ c p s cmd n first count, TablesOk s → isBinding c = true → Granted s p cmd → byteAt cmd 1 = codeOf c →
    byteAt cmd 2 = slotByte n → ownsOpen s p n → first = (byteAt cmd 3).toNat →
    count = (if isRange c = true then (byteAt cmd 4).toNat else 1) → 1 ≤ count → count ≤ 16 →
    first + count ≤ (s.slot n).size.entries →
    let refuses := Refuses (commandRow c p) s p
    (c ∈ [.allocShared, .allocPrivate, .allocRange] →
      (∃ k, k < count ∧ s.entry n (first + k) ≠ none) → refuses 0x09) ∧
    (c ∈ [.store, .freeze, .release] → s.entry n first = none → refuses 0x0A) ∧
    (c ∈ [.store, .freeze] → ∀ d, s.entry n first = some d → isShared s d = true → refuses 0x0B) ∧
    (c = .loadValues → ∀ k, k < count → (∀ j, j < k → (s.entry n (first + j)).any (isPriv s) = true) →
      (s.entry n (first + k) = none → refuses 0x0A) ∧
      (∀ d, s.entry n (first + k) = some d → isShared s d = true → refuses 0x0B)) ∧
    (c ∈ [.allocPrivate, .allocRange] → (∀ k, k < count → s.entry n (first + k) = none) →
      ((s.slot n).quota < (s.slot n).privCount + count → refuses 0x0C) ∧
      ((s.slot n).privCount + count ≤ (s.slot n).quota → s.freeList.length < count → refuses 0x0D)) ∧
    (c = .allocShared → s.entry n first = none → ∀ v, colourAt cmd 4 = v →
      (∀ d, s.cell d = .shared v 255 → refuses 0x0E) ∧
      ((∀ d h, s.cell d ≠ .shared v h) → s.freeList = [] → refuses 0x0D)) ∧
    (c = .freeze → ∀ d e v m j, s.entry n first = some d → s.cell d = .priv v m j → s.cell e = .shared v 255 →
      refuses 0x0E) ∧
    (c = .allocShared → s.entry n first = none → ∀ v, colourAt cmd 4 = v →
      (∀ d h, s.cell d = .shared v h → h < 255 → ¬ hasRoom s 1 → refuses 0x0F) ∧
      ((∀ d h, s.cell d ≠ .shared v h) → s.freeList ≠ [] → ¬ hasRoom s 2 → refuses 0x0F)) ∧
    (c ∈ [.allocPrivate, .allocRange] → (∀ k, k < count → s.entry n (first + k) = none) →
      (s.slot n).privCount + count ≤ (s.slot n).quota → count ≤ s.freeList.length → ¬ hasRoom s (2 * count) →
      refuses 0x0F) ∧
    (c ∈ [.store, .loadValues] → (∀ k, k < count → (s.entry n (first + k)).any (isPriv s) = true) →
      ¬ hasRoom s count → refuses 0x0F) ∧
    (c = .release → s.entry n first ≠ none → ¬ hasRoom s 1 → refuses 0x0F) ∧
    (c = .releaseRange → ∀ m, m = (List.range' first count).countP (fun i => (s.entry n i).isSome) → 1 ≤ m →
      ¬ hasRoom s m → refuses 0x0F) ∧
    (c = .freeze → ∀ d e v m j h, s.entry n first = some d → s.cell d = .priv v m j → s.cell e = .shared v h →
      h < 255 → ¬ hasRoom s 1 → refuses 0x0F)

/-- Events that do not arise stop the model by name (log 2): a grant at a port that the engine does not
grant, or of another command than the one collected; the expiry of a stopped timer; a batch applied event
with no batch in application (R146, R129, R126, R90, Table 4-4). -/
def Obligations.EventsThatDoNotAriseStop : Prop :=
  (∀ c p s, ((s.port p).request = false ∨ (s.port p.other).request = true ∧ s.lastGranted = p) →
    exec (commandRow c p) s = .fault .notGranted) ∧
  (∀ c p s cmd, Granted s p cmd → byteAt cmd 1 ≠ codeOf c →
    exec (commandRow c p) s = .fault .otherCommandCollected) ∧
  (∀ p s, (s.port p).seq ≠ .collecting ∨ (s.port p).interByteTimer = false →
    exec (.interByteTimerExpiry p) s = .fault .interByteTimerStopped) ∧
  (∀ s, s.commit.timer = .stopped → exec .commitTimerExpiry s = .fault .commitTimerStopped) ∧
  ∀ s, s.commit.state = .idle ∨ s.queue = [] → exec .batchApplied s = .fault .noBatchInApplication
end

