-- ==== Sys2Proof/Laws/State.lean ====
section
/-! SUPPORT. What each named update of the state leaves alone, field by field, and what the accessors
read after it. -/

namespace Sys2Proof.Machine

set_option Elab.async false

/-! ## Reading back one item -/

@[simp] theorem State.cell_setCell_self (s : State) (c : CellNo) (w : Cell) : (s.setCell c w).cell c = w := by
  simp [State.cell, State.setCell]

theorem State.cell_setCell_ne (s : State) {c d : CellNo} (w : Cell) (h : d ≠ c) :
    (s.setCell c w).cell d = s.cell d := by
  have : c.val ≠ d.val := fun e => h (Fin.ext e.symm)
  simp [State.cell, State.setCell, this]

theorem State.cell_setCell (s : State) (c d : CellNo) (w : Cell) :
    (s.setCell c w).cell d = if d = c then w else s.cell d := by
  split
  · subst d; simp
  · exact s.cell_setCell_ne w ‹_›

@[simp] theorem State.slot_setSlot_self (s : State) (n : SlotNo) (x : Slot) : (s.setSlot n x).slot n = x := by
  simp [State.slot, State.setSlot]

theorem State.slot_setSlot_ne (s : State) {n m : SlotNo} (x : Slot) (h : m ≠ n) :
    (s.setSlot n x).slot m = s.slot m := by
  have : n.val ≠ m.val := fun e => h (Fin.ext e.symm)
  simp [State.slot, State.setSlot, this]

theorem State.slot_setSlot (s : State) (n m : SlotNo) (x : Slot) :
    (s.setSlot n x).slot m = if m = n then x else s.slot m := by
  split
  · subst m; simp
  · exact s.slot_setSlot_ne x ‹_›

theorem State.slot_setEntry (s : State) (n m : SlotNo) (i : Nat) (e : Option CellNo) :
    (s.setEntry n i e).slot m =
      if m = n then { s.slot n with entries := (s.slot n).entries.set i e } else s.slot m :=
  s.slot_setSlot n m _

theorem State.slot_setPrivCount (s : State) (n m : SlotNo) (k : Nat) :
    (s.setPrivCount n k).slot m = if m = n then { s.slot n with privCount := k } else s.slot m :=
  s.slot_setSlot n m _

theorem State.slot_setSharedCount (s : State) (n m : SlotNo) (k : Nat) :
    (s.setSharedCount n k).slot m = if m = n then { s.slot n with sharedCount := k } else s.slot m :=
  s.slot_setSlot n m _

@[simp] theorem State.port_setPort_self (s : State) (p : Port) (x : PortState) : (s.setPort p x).port p = x := by
  cases p <;> rfl

@[simp] theorem State.port_setPort_other (s : State) (p : Port) (x : PortState) :
    (s.setPort p x).port p.other = s.port p.other := by
  cases p <;> rfl

theorem State.port_setPort (s : State) (p q : Port) (x : PortState) :
    (s.setPort p x).port q = if q = p then x else s.port q := by
  cases p <;> cases q <;> rfl

@[simp] theorem Port.other_ne (p : Port) : p.other ≠ p := by cases p <;> decide

@[simp] theorem Port.other_other (p : Port) : p.other.other = p := by cases p <;> rfl

theorem Port.eq_or_eq_other (p q : Port) : q = p ∨ q = p.other := by cases p <;> cases q <;> decide

/-! ## What an update leaves alone: single updates -/

/-! ### setCell -/

@[simp] theorem State.setCell_freeList (s : State) (c : CellNo) (w : Cell) : (s.setCell c w).freeList = s.freeList := rfl
@[simp] theorem State.setCell_sharedIndex (s : State) (c : CellNo) (w : Cell) : (s.setCell c w).sharedIndex = s.sharedIndex := rfl
@[simp] theorem State.setCell_slots (s : State) (c : CellNo) (w : Cell) : (s.setCell c w).slots = s.slots := rfl
@[simp] theorem State.setCell_config (s : State) (c : CellNo) (w : Cell) : (s.setCell c w).config = s.config := rfl
@[simp] theorem State.setCell_lastGranted (s : State) (c : CellNo) (w : Cell) : (s.setCell c w).lastGranted = s.lastGranted := rfl
@[simp] theorem State.setCell_queue (s : State) (c : CellNo) (w : Cell) : (s.setCell c w).queue = s.queue := rfl
@[simp] theorem State.setCell_nextBatch (s : State) (c : CellNo) (w : Cell) : (s.setCell c w).nextBatch = s.nextBatch := rfl
@[simp] theorem State.setCell_commit (s : State) (c : CellNo) (w : Cell) : (s.setCell c w).commit = s.commit := rfl
@[simp] theorem State.setCell_display (s : State) (c : CellNo) (w : Cell) : (s.setCell c w).display = s.display := rfl
@[simp] theorem State.setCell_scan (s : State) (c : CellNo) (w : Cell) : (s.setCell c w).scan = s.scan := rfl
@[simp] theorem State.setCell_portA (s : State) (c : CellNo) (w : Cell) : (s.setCell c w).portA = s.portA := rfl
@[simp] theorem State.setCell_portB (s : State) (c : CellNo) (w : Cell) : (s.setCell c w).portB = s.portB := rfl
@[simp] theorem State.setCell_controlPort (s : State) (c : CellNo) (w : Cell) : (s.setCell c w).controlPort = s.controlPort := rfl
@[simp] theorem State.setCell_pending (s : State) (c : CellNo) (w : Cell) : (s.setCell c w).pending = s.pending := rfl
@[simp] theorem State.setCell_slot (s : State) (c : CellNo) (w : Cell) (x : SlotNo) : (s.setCell c w).slot x = s.slot x := rfl
@[simp] theorem State.setCell_port (s : State) (c : CellNo) (w : Cell) (x : Port) : (s.setCell c w).port x = s.port x := rfl

/-! ### setSlot -/

@[simp] theorem State.setSlot_cells (s : State) (n : SlotNo) (y : Slot) : (s.setSlot n y).cells = s.cells := rfl
@[simp] theorem State.setSlot_freeList (s : State) (n : SlotNo) (y : Slot) : (s.setSlot n y).freeList = s.freeList := rfl
@[simp] theorem State.setSlot_sharedIndex (s : State) (n : SlotNo) (y : Slot) : (s.setSlot n y).sharedIndex = s.sharedIndex := rfl
@[simp] theorem State.setSlot_config (s : State) (n : SlotNo) (y : Slot) : (s.setSlot n y).config = s.config := rfl
@[simp] theorem State.setSlot_lastGranted (s : State) (n : SlotNo) (y : Slot) : (s.setSlot n y).lastGranted = s.lastGranted := rfl
@[simp] theorem State.setSlot_queue (s : State) (n : SlotNo) (y : Slot) : (s.setSlot n y).queue = s.queue := rfl
@[simp] theorem State.setSlot_nextBatch (s : State) (n : SlotNo) (y : Slot) : (s.setSlot n y).nextBatch = s.nextBatch := rfl
@[simp] theorem State.setSlot_commit (s : State) (n : SlotNo) (y : Slot) : (s.setSlot n y).commit = s.commit := rfl
@[simp] theorem State.setSlot_display (s : State) (n : SlotNo) (y : Slot) : (s.setSlot n y).display = s.display := rfl
@[simp] theorem State.setSlot_scan (s : State) (n : SlotNo) (y : Slot) : (s.setSlot n y).scan = s.scan := rfl
@[simp] theorem State.setSlot_portA (s : State) (n : SlotNo) (y : Slot) : (s.setSlot n y).portA = s.portA := rfl
@[simp] theorem State.setSlot_portB (s : State) (n : SlotNo) (y : Slot) : (s.setSlot n y).portB = s.portB := rfl
@[simp] theorem State.setSlot_controlPort (s : State) (n : SlotNo) (y : Slot) : (s.setSlot n y).controlPort = s.controlPort := rfl
@[simp] theorem State.setSlot_pending (s : State) (n : SlotNo) (y : Slot) : (s.setSlot n y).pending = s.pending := rfl
@[simp] theorem State.setSlot_cell (s : State) (n : SlotNo) (y : Slot) (x : CellNo) : (s.setSlot n y).cell x = s.cell x := rfl
@[simp] theorem State.setSlot_port (s : State) (n : SlotNo) (y : Slot) (x : Port) : (s.setSlot n y).port x = s.port x := rfl

/-! ### setEntry -/

@[simp] theorem State.setEntry_cells (s : State) (n : SlotNo) (i : Nat) (e : Option CellNo) : (s.setEntry n i e).cells = s.cells := rfl
@[simp] theorem State.setEntry_freeList (s : State) (n : SlotNo) (i : Nat) (e : Option CellNo) : (s.setEntry n i e).freeList = s.freeList := rfl
@[simp] theorem State.setEntry_sharedIndex (s : State) (n : SlotNo) (i : Nat) (e : Option CellNo) : (s.setEntry n i e).sharedIndex = s.sharedIndex := rfl
@[simp] theorem State.setEntry_config (s : State) (n : SlotNo) (i : Nat) (e : Option CellNo) : (s.setEntry n i e).config = s.config := rfl
@[simp] theorem State.setEntry_lastGranted (s : State) (n : SlotNo) (i : Nat) (e : Option CellNo) : (s.setEntry n i e).lastGranted = s.lastGranted := rfl
@[simp] theorem State.setEntry_queue (s : State) (n : SlotNo) (i : Nat) (e : Option CellNo) : (s.setEntry n i e).queue = s.queue := rfl
@[simp] theorem State.setEntry_nextBatch (s : State) (n : SlotNo) (i : Nat) (e : Option CellNo) : (s.setEntry n i e).nextBatch = s.nextBatch := rfl
@[simp] theorem State.setEntry_commit (s : State) (n : SlotNo) (i : Nat) (e : Option CellNo) : (s.setEntry n i e).commit = s.commit := rfl
@[simp] theorem State.setEntry_display (s : State) (n : SlotNo) (i : Nat) (e : Option CellNo) : (s.setEntry n i e).display = s.display := rfl
@[simp] theorem State.setEntry_scan (s : State) (n : SlotNo) (i : Nat) (e : Option CellNo) : (s.setEntry n i e).scan = s.scan := rfl
@[simp] theorem State.setEntry_portA (s : State) (n : SlotNo) (i : Nat) (e : Option CellNo) : (s.setEntry n i e).portA = s.portA := rfl
@[simp] theorem State.setEntry_portB (s : State) (n : SlotNo) (i : Nat) (e : Option CellNo) : (s.setEntry n i e).portB = s.portB := rfl
@[simp] theorem State.setEntry_controlPort (s : State) (n : SlotNo) (i : Nat) (e : Option CellNo) : (s.setEntry n i e).controlPort = s.controlPort := rfl
@[simp] theorem State.setEntry_pending (s : State) (n : SlotNo) (i : Nat) (e : Option CellNo) : (s.setEntry n i e).pending = s.pending := rfl
@[simp] theorem State.setEntry_cell (s : State) (n : SlotNo) (i : Nat) (e : Option CellNo) (x : CellNo) : (s.setEntry n i e).cell x = s.cell x := rfl
@[simp] theorem State.setEntry_port (s : State) (n : SlotNo) (i : Nat) (e : Option CellNo) (x : Port) : (s.setEntry n i e).port x = s.port x := rfl

/-! ### setPrivCount -/

@[simp] theorem State.setPrivCount_cells (s : State) (n : SlotNo) (k : Nat) : (s.setPrivCount n k).cells = s.cells := rfl
@[simp] theorem State.setPrivCount_freeList (s : State) (n : SlotNo) (k : Nat) : (s.setPrivCount n k).freeList = s.freeList := rfl
@[simp] theorem State.setPrivCount_sharedIndex (s : State) (n : SlotNo) (k : Nat) : (s.setPrivCount n k).sharedIndex = s.sharedIndex := rfl
@[simp] theorem State.setPrivCount_config (s : State) (n : SlotNo) (k : Nat) : (s.setPrivCount n k).config = s.config := rfl
@[simp] theorem State.setPrivCount_lastGranted (s : State) (n : SlotNo) (k : Nat) : (s.setPrivCount n k).lastGranted = s.lastGranted := rfl
@[simp] theorem State.setPrivCount_queue (s : State) (n : SlotNo) (k : Nat) : (s.setPrivCount n k).queue = s.queue := rfl
@[simp] theorem State.setPrivCount_nextBatch (s : State) (n : SlotNo) (k : Nat) : (s.setPrivCount n k).nextBatch = s.nextBatch := rfl
@[simp] theorem State.setPrivCount_commit (s : State) (n : SlotNo) (k : Nat) : (s.setPrivCount n k).commit = s.commit := rfl
@[simp] theorem State.setPrivCount_display (s : State) (n : SlotNo) (k : Nat) : (s.setPrivCount n k).display = s.display := rfl
@[simp] theorem State.setPrivCount_scan (s : State) (n : SlotNo) (k : Nat) : (s.setPrivCount n k).scan = s.scan := rfl
@[simp] theorem State.setPrivCount_portA (s : State) (n : SlotNo) (k : Nat) : (s.setPrivCount n k).portA = s.portA := rfl
@[simp] theorem State.setPrivCount_portB (s : State) (n : SlotNo) (k : Nat) : (s.setPrivCount n k).portB = s.portB := rfl
@[simp] theorem State.setPrivCount_controlPort (s : State) (n : SlotNo) (k : Nat) : (s.setPrivCount n k).controlPort = s.controlPort := rfl
@[simp] theorem State.setPrivCount_pending (s : State) (n : SlotNo) (k : Nat) : (s.setPrivCount n k).pending = s.pending := rfl
@[simp] theorem State.setPrivCount_cell (s : State) (n : SlotNo) (k : Nat) (x : CellNo) : (s.setPrivCount n k).cell x = s.cell x := rfl
@[simp] theorem State.setPrivCount_port (s : State) (n : SlotNo) (k : Nat) (x : Port) : (s.setPrivCount n k).port x = s.port x := rfl

/-! ### setSharedCount -/

@[simp] theorem State.setSharedCount_cells (s : State) (n : SlotNo) (k : Nat) : (s.setSharedCount n k).cells = s.cells := rfl
@[simp] theorem State.setSharedCount_freeList (s : State) (n : SlotNo) (k : Nat) : (s.setSharedCount n k).freeList = s.freeList := rfl
@[simp] theorem State.setSharedCount_sharedIndex (s : State) (n : SlotNo) (k : Nat) : (s.setSharedCount n k).sharedIndex = s.sharedIndex := rfl
@[simp] theorem State.setSharedCount_config (s : State) (n : SlotNo) (k : Nat) : (s.setSharedCount n k).config = s.config := rfl
@[simp] theorem State.setSharedCount_lastGranted (s : State) (n : SlotNo) (k : Nat) : (s.setSharedCount n k).lastGranted = s.lastGranted := rfl
@[simp] theorem State.setSharedCount_queue (s : State) (n : SlotNo) (k : Nat) : (s.setSharedCount n k).queue = s.queue := rfl
@[simp] theorem State.setSharedCount_nextBatch (s : State) (n : SlotNo) (k : Nat) : (s.setSharedCount n k).nextBatch = s.nextBatch := rfl
@[simp] theorem State.setSharedCount_commit (s : State) (n : SlotNo) (k : Nat) : (s.setSharedCount n k).commit = s.commit := rfl
@[simp] theorem State.setSharedCount_display (s : State) (n : SlotNo) (k : Nat) : (s.setSharedCount n k).display = s.display := rfl
@[simp] theorem State.setSharedCount_scan (s : State) (n : SlotNo) (k : Nat) : (s.setSharedCount n k).scan = s.scan := rfl
@[simp] theorem State.setSharedCount_portA (s : State) (n : SlotNo) (k : Nat) : (s.setSharedCount n k).portA = s.portA := rfl
@[simp] theorem State.setSharedCount_portB (s : State) (n : SlotNo) (k : Nat) : (s.setSharedCount n k).portB = s.portB := rfl
@[simp] theorem State.setSharedCount_controlPort (s : State) (n : SlotNo) (k : Nat) : (s.setSharedCount n k).controlPort = s.controlPort := rfl
@[simp] theorem State.setSharedCount_pending (s : State) (n : SlotNo) (k : Nat) : (s.setSharedCount n k).pending = s.pending := rfl
@[simp] theorem State.setSharedCount_cell (s : State) (n : SlotNo) (k : Nat) (x : CellNo) : (s.setSharedCount n k).cell x = s.cell x := rfl
@[simp] theorem State.setSharedCount_port (s : State) (n : SlotNo) (k : Nat) (x : Port) : (s.setSharedCount n k).port x = s.port x := rfl

/-! ### setPort -/

@[simp] theorem State.setPort_cells (s : State) (p : Port) (y : PortState) : (s.setPort p y).cells = s.cells := by cases p <;> rfl
@[simp] theorem State.setPort_freeList (s : State) (p : Port) (y : PortState) : (s.setPort p y).freeList = s.freeList := by cases p <;> rfl
@[simp] theorem State.setPort_sharedIndex (s : State) (p : Port) (y : PortState) : (s.setPort p y).sharedIndex = s.sharedIndex := by cases p <;> rfl
@[simp] theorem State.setPort_slots (s : State) (p : Port) (y : PortState) : (s.setPort p y).slots = s.slots := by cases p <;> rfl
@[simp] theorem State.setPort_config (s : State) (p : Port) (y : PortState) : (s.setPort p y).config = s.config := by cases p <;> rfl
@[simp] theorem State.setPort_lastGranted (s : State) (p : Port) (y : PortState) : (s.setPort p y).lastGranted = s.lastGranted := by cases p <;> rfl
@[simp] theorem State.setPort_queue (s : State) (p : Port) (y : PortState) : (s.setPort p y).queue = s.queue := by cases p <;> rfl
@[simp] theorem State.setPort_nextBatch (s : State) (p : Port) (y : PortState) : (s.setPort p y).nextBatch = s.nextBatch := by cases p <;> rfl
@[simp] theorem State.setPort_commit (s : State) (p : Port) (y : PortState) : (s.setPort p y).commit = s.commit := by cases p <;> rfl
@[simp] theorem State.setPort_display (s : State) (p : Port) (y : PortState) : (s.setPort p y).display = s.display := by cases p <;> rfl
@[simp] theorem State.setPort_scan (s : State) (p : Port) (y : PortState) : (s.setPort p y).scan = s.scan := by cases p <;> rfl
@[simp] theorem State.setPort_controlPort (s : State) (p : Port) (y : PortState) : (s.setPort p y).controlPort = s.controlPort := by cases p <;> rfl
@[simp] theorem State.setPort_pending (s : State) (p : Port) (y : PortState) : (s.setPort p y).pending = s.pending := by cases p <;> rfl
@[simp] theorem State.setPort_cell (s : State) (p : Port) (y : PortState) (x : CellNo) : (s.setPort p y).cell x = s.cell x := by simp [State.cell]
@[simp] theorem State.setPort_slot (s : State) (p : Port) (y : PortState) (x : SlotNo) : (s.setPort p y).slot x = s.slot x := by simp [State.slot]

/-! ### appendBatch -/

@[simp] theorem State.appendBatch_cells (s : State) (p : Port) (es : List Edit) : (s.appendBatch p es).cells = s.cells := rfl
@[simp] theorem State.appendBatch_freeList (s : State) (p : Port) (es : List Edit) : (s.appendBatch p es).freeList = s.freeList := rfl
@[simp] theorem State.appendBatch_sharedIndex (s : State) (p : Port) (es : List Edit) : (s.appendBatch p es).sharedIndex = s.sharedIndex := rfl
@[simp] theorem State.appendBatch_slots (s : State) (p : Port) (es : List Edit) : (s.appendBatch p es).slots = s.slots := rfl
@[simp] theorem State.appendBatch_config (s : State) (p : Port) (es : List Edit) : (s.appendBatch p es).config = s.config := rfl
@[simp] theorem State.appendBatch_lastGranted (s : State) (p : Port) (es : List Edit) : (s.appendBatch p es).lastGranted = s.lastGranted := rfl
@[simp] theorem State.appendBatch_commit (s : State) (p : Port) (es : List Edit) : (s.appendBatch p es).commit = s.commit := rfl
@[simp] theorem State.appendBatch_display (s : State) (p : Port) (es : List Edit) : (s.appendBatch p es).display = s.display := rfl
@[simp] theorem State.appendBatch_scan (s : State) (p : Port) (es : List Edit) : (s.appendBatch p es).scan = s.scan := rfl
@[simp] theorem State.appendBatch_portA (s : State) (p : Port) (es : List Edit) : (s.appendBatch p es).portA = s.portA := rfl
@[simp] theorem State.appendBatch_portB (s : State) (p : Port) (es : List Edit) : (s.appendBatch p es).portB = s.portB := rfl
@[simp] theorem State.appendBatch_controlPort (s : State) (p : Port) (es : List Edit) : (s.appendBatch p es).controlPort = s.controlPort := rfl
@[simp] theorem State.appendBatch_pending (s : State) (p : Port) (es : List Edit) : (s.appendBatch p es).pending = s.pending := rfl
@[simp] theorem State.appendBatch_cell (s : State) (p : Port) (es : List Edit) (x : CellNo) : (s.appendBatch p es).cell x = s.cell x := rfl
@[simp] theorem State.appendBatch_slot (s : State) (p : Port) (es : List Edit) (x : SlotNo) : (s.appendBatch p es).slot x = s.slot x := rfl
@[simp] theorem State.appendBatch_port (s : State) (p : Port) (es : List Edit) (x : Port) : (s.appendBatch p es).port x = s.port x := rfl

/-! ### applyEdits -/

@[simp] theorem State.applyEdits_cells (s : State) (es : List Edit) : (s.applyEdits es).cells = s.cells := rfl
@[simp] theorem State.applyEdits_freeList (s : State) (es : List Edit) : (s.applyEdits es).freeList = s.freeList := rfl
@[simp] theorem State.applyEdits_sharedIndex (s : State) (es : List Edit) : (s.applyEdits es).sharedIndex = s.sharedIndex := rfl
@[simp] theorem State.applyEdits_config (s : State) (es : List Edit) : (s.applyEdits es).config = s.config := rfl
@[simp] theorem State.applyEdits_lastGranted (s : State) (es : List Edit) : (s.applyEdits es).lastGranted = s.lastGranted := rfl
@[simp] theorem State.applyEdits_queue (s : State) (es : List Edit) : (s.applyEdits es).queue = s.queue := rfl
@[simp] theorem State.applyEdits_nextBatch (s : State) (es : List Edit) : (s.applyEdits es).nextBatch = s.nextBatch := rfl
@[simp] theorem State.applyEdits_commit (s : State) (es : List Edit) : (s.applyEdits es).commit = s.commit := rfl
@[simp] theorem State.applyEdits_scan (s : State) (es : List Edit) : (s.applyEdits es).scan = s.scan := rfl
@[simp] theorem State.applyEdits_portA (s : State) (es : List Edit) : (s.applyEdits es).portA = s.portA := rfl
@[simp] theorem State.applyEdits_portB (s : State) (es : List Edit) : (s.applyEdits es).portB = s.portB := rfl
@[simp] theorem State.applyEdits_controlPort (s : State) (es : List Edit) : (s.applyEdits es).controlPort = s.controlPort := rfl
@[simp] theorem State.applyEdits_pending (s : State) (es : List Edit) : (s.applyEdits es).pending = s.pending := rfl
@[simp] theorem State.applyEdits_cell (s : State) (es : List Edit) (x : CellNo) : (s.applyEdits es).cell x = s.cell x := rfl
@[simp] theorem State.applyEdits_port (s : State) (es : List Edit) (x : Port) : (s.applyEdits es).port x = s.port x := rfl

/-! ### restartTimer -/

@[simp] theorem State.restartTimer_cells (s : State)  : s.restartTimer.cells = s.cells := rfl
@[simp] theorem State.restartTimer_freeList (s : State)  : s.restartTimer.freeList = s.freeList := rfl
@[simp] theorem State.restartTimer_sharedIndex (s : State)  : s.restartTimer.sharedIndex = s.sharedIndex := rfl
@[simp] theorem State.restartTimer_slots (s : State)  : s.restartTimer.slots = s.slots := rfl
@[simp] theorem State.restartTimer_config (s : State)  : s.restartTimer.config = s.config := rfl
@[simp] theorem State.restartTimer_lastGranted (s : State)  : s.restartTimer.lastGranted = s.lastGranted := rfl
@[simp] theorem State.restartTimer_queue (s : State)  : s.restartTimer.queue = s.queue := rfl
@[simp] theorem State.restartTimer_nextBatch (s : State)  : s.restartTimer.nextBatch = s.nextBatch := rfl
@[simp] theorem State.restartTimer_display (s : State)  : s.restartTimer.display = s.display := rfl
@[simp] theorem State.restartTimer_scan (s : State)  : s.restartTimer.scan = s.scan := rfl
@[simp] theorem State.restartTimer_portA (s : State)  : s.restartTimer.portA = s.portA := rfl
@[simp] theorem State.restartTimer_portB (s : State)  : s.restartTimer.portB = s.portB := rfl
@[simp] theorem State.restartTimer_controlPort (s : State)  : s.restartTimer.controlPort = s.controlPort := rfl
@[simp] theorem State.restartTimer_pending (s : State)  : s.restartTimer.pending = s.pending := rfl
@[simp] theorem State.restartTimer_cell (s : State) (x : CellNo) : s.restartTimer.cell x = s.cell x := rfl
@[simp] theorem State.restartTimer_slot (s : State) (x : SlotNo) : s.restartTimer.slot x = s.slot x := rfl
@[simp] theorem State.restartTimer_port (s : State) (x : Port) : s.restartTimer.port x = s.port x := rfl

/-! ### fenceEvents -/

@[simp] theorem State.fenceEvents_cells (s : State) (k : Nat) : (s.fenceEvents k).cells = s.cells := rfl
@[simp] theorem State.fenceEvents_freeList (s : State) (k : Nat) : (s.fenceEvents k).freeList = s.freeList := rfl
@[simp] theorem State.fenceEvents_sharedIndex (s : State) (k : Nat) : (s.fenceEvents k).sharedIndex = s.sharedIndex := rfl
@[simp] theorem State.fenceEvents_slots (s : State) (k : Nat) : (s.fenceEvents k).slots = s.slots := rfl
@[simp] theorem State.fenceEvents_config (s : State) (k : Nat) : (s.fenceEvents k).config = s.config := rfl
@[simp] theorem State.fenceEvents_lastGranted (s : State) (k : Nat) : (s.fenceEvents k).lastGranted = s.lastGranted := rfl
@[simp] theorem State.fenceEvents_queue (s : State) (k : Nat) : (s.fenceEvents k).queue = s.queue := rfl
@[simp] theorem State.fenceEvents_nextBatch (s : State) (k : Nat) : (s.fenceEvents k).nextBatch = s.nextBatch := rfl
@[simp] theorem State.fenceEvents_commit (s : State) (k : Nat) : (s.fenceEvents k).commit = s.commit := rfl
@[simp] theorem State.fenceEvents_display (s : State) (k : Nat) : (s.fenceEvents k).display = s.display := rfl
@[simp] theorem State.fenceEvents_scan (s : State) (k : Nat) : (s.fenceEvents k).scan = s.scan := rfl
@[simp] theorem State.fenceEvents_controlPort (s : State) (k : Nat) : (s.fenceEvents k).controlPort = s.controlPort := rfl
@[simp] theorem State.fenceEvents_pending (s : State) (k : Nat) : (s.fenceEvents k).pending = s.pending := rfl
@[simp] theorem State.fenceEvents_cell (s : State) (k : Nat) (x : CellNo) : (s.fenceEvents k).cell x = s.cell x := rfl
@[simp] theorem State.fenceEvents_slot (s : State) (k : Nat) (x : SlotNo) : (s.fenceEvents k).slot x = s.slot x := rfl

/-! ### startLine -/

@[simp] theorem State.startLine_cells (s : State) (k : Nat) : (s.startLine k).cells = s.cells := rfl
@[simp] theorem State.startLine_freeList (s : State) (k : Nat) : (s.startLine k).freeList = s.freeList := rfl
@[simp] theorem State.startLine_sharedIndex (s : State) (k : Nat) : (s.startLine k).sharedIndex = s.sharedIndex := rfl
@[simp] theorem State.startLine_slots (s : State) (k : Nat) : (s.startLine k).slots = s.slots := rfl
@[simp] theorem State.startLine_config (s : State) (k : Nat) : (s.startLine k).config = s.config := rfl
@[simp] theorem State.startLine_lastGranted (s : State) (k : Nat) : (s.startLine k).lastGranted = s.lastGranted := rfl
@[simp] theorem State.startLine_queue (s : State) (k : Nat) : (s.startLine k).queue = s.queue := rfl
@[simp] theorem State.startLine_nextBatch (s : State) (k : Nat) : (s.startLine k).nextBatch = s.nextBatch := rfl
@[simp] theorem State.startLine_commit (s : State) (k : Nat) : (s.startLine k).commit = s.commit := rfl
@[simp] theorem State.startLine_display (s : State) (k : Nat) : (s.startLine k).display = s.display := rfl
@[simp] theorem State.startLine_portA (s : State) (k : Nat) : (s.startLine k).portA = s.portA := rfl
@[simp] theorem State.startLine_portB (s : State) (k : Nat) : (s.startLine k).portB = s.portB := rfl
@[simp] theorem State.startLine_controlPort (s : State) (k : Nat) : (s.startLine k).controlPort = s.controlPort := rfl
@[simp] theorem State.startLine_pending (s : State) (k : Nat) : (s.startLine k).pending = s.pending := rfl
@[simp] theorem State.startLine_cell (s : State) (k : Nat) (x : CellNo) : (s.startLine k).cell x = s.cell x := rfl
@[simp] theorem State.startLine_slot (s : State) (k : Nat) (x : SlotNo) : (s.startLine k).slot x = s.slot x := rfl
@[simp] theorem State.startLine_port (s : State) (k : Nat) (x : Port) : (s.startLine k).port x = s.port x := rfl

/-! ### freeCell -/

@[simp] theorem State.freeCell_sharedIndex (s : State) (c : CellNo) : (s.freeCell c).sharedIndex = s.sharedIndex := rfl
@[simp] theorem State.freeCell_slots (s : State) (c : CellNo) : (s.freeCell c).slots = s.slots := rfl
@[simp] theorem State.freeCell_config (s : State) (c : CellNo) : (s.freeCell c).config = s.config := rfl
@[simp] theorem State.freeCell_lastGranted (s : State) (c : CellNo) : (s.freeCell c).lastGranted = s.lastGranted := rfl
@[simp] theorem State.freeCell_queue (s : State) (c : CellNo) : (s.freeCell c).queue = s.queue := rfl
@[simp] theorem State.freeCell_nextBatch (s : State) (c : CellNo) : (s.freeCell c).nextBatch = s.nextBatch := rfl
@[simp] theorem State.freeCell_commit (s : State) (c : CellNo) : (s.freeCell c).commit = s.commit := rfl
@[simp] theorem State.freeCell_display (s : State) (c : CellNo) : (s.freeCell c).display = s.display := rfl
@[simp] theorem State.freeCell_scan (s : State) (c : CellNo) : (s.freeCell c).scan = s.scan := rfl
@[simp] theorem State.freeCell_portA (s : State) (c : CellNo) : (s.freeCell c).portA = s.portA := rfl
@[simp] theorem State.freeCell_portB (s : State) (c : CellNo) : (s.freeCell c).portB = s.portB := rfl
@[simp] theorem State.freeCell_controlPort (s : State) (c : CellNo) : (s.freeCell c).controlPort = s.controlPort := rfl
@[simp] theorem State.freeCell_pending (s : State) (c : CellNo) : (s.freeCell c).pending = s.pending := rfl
@[simp] theorem State.freeCell_slot (s : State) (c : CellNo) (x : SlotNo) : (s.freeCell c).slot x = s.slot x := rfl
@[simp] theorem State.freeCell_port (s : State) (c : CellNo) (x : Port) : (s.freeCell c).port x = s.port x := rfl

/-! ### dropPair -/

@[simp] theorem State.dropPair_cells (s : State) (c : CellNo) : (s.dropPair c).cells = s.cells := rfl
@[simp] theorem State.dropPair_freeList (s : State) (c : CellNo) : (s.dropPair c).freeList = s.freeList := rfl
@[simp] theorem State.dropPair_slots (s : State) (c : CellNo) : (s.dropPair c).slots = s.slots := rfl
@[simp] theorem State.dropPair_config (s : State) (c : CellNo) : (s.dropPair c).config = s.config := rfl
@[simp] theorem State.dropPair_lastGranted (s : State) (c : CellNo) : (s.dropPair c).lastGranted = s.lastGranted := rfl
@[simp] theorem State.dropPair_queue (s : State) (c : CellNo) : (s.dropPair c).queue = s.queue := rfl
@[simp] theorem State.dropPair_nextBatch (s : State) (c : CellNo) : (s.dropPair c).nextBatch = s.nextBatch := rfl
@[simp] theorem State.dropPair_commit (s : State) (c : CellNo) : (s.dropPair c).commit = s.commit := rfl
@[simp] theorem State.dropPair_display (s : State) (c : CellNo) : (s.dropPair c).display = s.display := rfl
@[simp] theorem State.dropPair_scan (s : State) (c : CellNo) : (s.dropPair c).scan = s.scan := rfl
@[simp] theorem State.dropPair_portA (s : State) (c : CellNo) : (s.dropPair c).portA = s.portA := rfl
@[simp] theorem State.dropPair_portB (s : State) (c : CellNo) : (s.dropPair c).portB = s.portB := rfl
@[simp] theorem State.dropPair_controlPort (s : State) (c : CellNo) : (s.dropPair c).controlPort = s.controlPort := rfl
@[simp] theorem State.dropPair_pending (s : State) (c : CellNo) : (s.dropPair c).pending = s.pending := rfl
@[simp] theorem State.dropPair_cell (s : State) (c : CellNo) (x : CellNo) : (s.dropPair c).cell x = s.cell x := rfl
@[simp] theorem State.dropPair_slot (s : State) (c : CellNo) (x : SlotNo) : (s.dropPair c).slot x = s.slot x := rfl
@[simp] theorem State.dropPair_port (s : State) (c : CellNo) (x : Port) : (s.dropPair c).port x = s.port x := rfl

/-! ### addPair -/

@[simp] theorem State.addPair_cells (s : State) (v : Colour) (c : CellNo) : (s.addPair v c).cells = s.cells := rfl
@[simp] theorem State.addPair_freeList (s : State) (v : Colour) (c : CellNo) : (s.addPair v c).freeList = s.freeList := rfl
@[simp] theorem State.addPair_slots (s : State) (v : Colour) (c : CellNo) : (s.addPair v c).slots = s.slots := rfl
@[simp] theorem State.addPair_config (s : State) (v : Colour) (c : CellNo) : (s.addPair v c).config = s.config := rfl
@[simp] theorem State.addPair_lastGranted (s : State) (v : Colour) (c : CellNo) : (s.addPair v c).lastGranted = s.lastGranted := rfl
@[simp] theorem State.addPair_queue (s : State) (v : Colour) (c : CellNo) : (s.addPair v c).queue = s.queue := rfl
@[simp] theorem State.addPair_nextBatch (s : State) (v : Colour) (c : CellNo) : (s.addPair v c).nextBatch = s.nextBatch := rfl
@[simp] theorem State.addPair_commit (s : State) (v : Colour) (c : CellNo) : (s.addPair v c).commit = s.commit := rfl
@[simp] theorem State.addPair_display (s : State) (v : Colour) (c : CellNo) : (s.addPair v c).display = s.display := rfl
@[simp] theorem State.addPair_scan (s : State) (v : Colour) (c : CellNo) : (s.addPair v c).scan = s.scan := rfl
@[simp] theorem State.addPair_portA (s : State) (v : Colour) (c : CellNo) : (s.addPair v c).portA = s.portA := rfl
@[simp] theorem State.addPair_portB (s : State) (v : Colour) (c : CellNo) : (s.addPair v c).portB = s.portB := rfl
@[simp] theorem State.addPair_controlPort (s : State) (v : Colour) (c : CellNo) : (s.addPair v c).controlPort = s.controlPort := rfl
@[simp] theorem State.addPair_pending (s : State) (v : Colour) (c : CellNo) : (s.addPair v c).pending = s.pending := rfl
@[simp] theorem State.addPair_cell (s : State) (v : Colour) (c : CellNo) (x : CellNo) : (s.addPair v c).cell x = s.cell x := rfl
@[simp] theorem State.addPair_slot (s : State) (v : Colour) (c : CellNo) (x : SlotNo) : (s.addPair v c).slot x = s.slot x := rfl
@[simp] theorem State.addPair_port (s : State) (v : Colour) (c : CellNo) (x : Port) : (s.addPair v c).port x = s.port x := rfl

/-! ### takeHead -/

@[simp] theorem State.takeHead_sharedIndex (s : State) (c : CellNo) (w : Cell) : (s.takeHead c w).sharedIndex = s.sharedIndex := rfl
@[simp] theorem State.takeHead_slots (s : State) (c : CellNo) (w : Cell) : (s.takeHead c w).slots = s.slots := rfl
@[simp] theorem State.takeHead_config (s : State) (c : CellNo) (w : Cell) : (s.takeHead c w).config = s.config := rfl
@[simp] theorem State.takeHead_lastGranted (s : State) (c : CellNo) (w : Cell) : (s.takeHead c w).lastGranted = s.lastGranted := rfl
@[simp] theorem State.takeHead_queue (s : State) (c : CellNo) (w : Cell) : (s.takeHead c w).queue = s.queue := rfl
@[simp] theorem State.takeHead_nextBatch (s : State) (c : CellNo) (w : Cell) : (s.takeHead c w).nextBatch = s.nextBatch := rfl
@[simp] theorem State.takeHead_commit (s : State) (c : CellNo) (w : Cell) : (s.takeHead c w).commit = s.commit := rfl
@[simp] theorem State.takeHead_display (s : State) (c : CellNo) (w : Cell) : (s.takeHead c w).display = s.display := rfl
@[simp] theorem State.takeHead_scan (s : State) (c : CellNo) (w : Cell) : (s.takeHead c w).scan = s.scan := rfl
@[simp] theorem State.takeHead_portA (s : State) (c : CellNo) (w : Cell) : (s.takeHead c w).portA = s.portA := rfl
@[simp] theorem State.takeHead_portB (s : State) (c : CellNo) (w : Cell) : (s.takeHead c w).portB = s.portB := rfl
@[simp] theorem State.takeHead_controlPort (s : State) (c : CellNo) (w : Cell) : (s.takeHead c w).controlPort = s.controlPort := rfl
@[simp] theorem State.takeHead_pending (s : State) (c : CellNo) (w : Cell) : (s.takeHead c w).pending = s.pending := rfl
@[simp] theorem State.takeHead_slot (s : State) (c : CellNo) (w : Cell) (x : SlotNo) : (s.takeHead c w).slot x = s.slot x := rfl
@[simp] theorem State.takeHead_port (s : State) (c : CellNo) (w : Cell) (x : Port) : (s.takeHead c w).port x = s.port x := rfl

/-! ### configure -/

@[simp] theorem State.configure_cells (s : State) (k m : Nat) : (s.configure k m).cells = s.cells := rfl
@[simp] theorem State.configure_freeList (s : State) (k m : Nat) : (s.configure k m).freeList = s.freeList := rfl
@[simp] theorem State.configure_sharedIndex (s : State) (k m : Nat) : (s.configure k m).sharedIndex = s.sharedIndex := rfl
@[simp] theorem State.configure_slots (s : State) (k m : Nat) : (s.configure k m).slots = s.slots := rfl
@[simp] theorem State.configure_lastGranted (s : State) (k m : Nat) : (s.configure k m).lastGranted = s.lastGranted := rfl
@[simp] theorem State.configure_queue (s : State) (k m : Nat) : (s.configure k m).queue = s.queue := rfl
@[simp] theorem State.configure_nextBatch (s : State) (k m : Nat) : (s.configure k m).nextBatch = s.nextBatch := rfl
@[simp] theorem State.configure_display (s : State) (k m : Nat) : (s.configure k m).display = s.display := rfl
@[simp] theorem State.configure_scan (s : State) (k m : Nat) : (s.configure k m).scan = s.scan := rfl
@[simp] theorem State.configure_portA (s : State) (k m : Nat) : (s.configure k m).portA = s.portA := rfl
@[simp] theorem State.configure_portB (s : State) (k m : Nat) : (s.configure k m).portB = s.portB := rfl
@[simp] theorem State.configure_controlPort (s : State) (k m : Nat) : (s.configure k m).controlPort = s.controlPort := rfl
@[simp] theorem State.configure_pending (s : State) (k m : Nat) : (s.configure k m).pending = s.pending := rfl
@[simp] theorem State.configure_cell (s : State) (k m : Nat) (x : CellNo) : (s.configure k m).cell x = s.cell x := rfl
@[simp] theorem State.configure_slot (s : State) (k m : Nat) (x : SlotNo) : (s.configure k m).slot x = s.slot x := rfl
@[simp] theorem State.configure_port (s : State) (k m : Nat) (x : Port) : (s.configure k m).port x = s.port x := rfl

/-! ## What an update leaves alone: operations built from them -/

/-! ### raise -/

@[simp] theorem State.raise_cells (s : State) (p : Port) (y : Notice) : (s.raise p y).cells = s.cells := by simp [State.raise]
@[simp] theorem State.raise_freeList (s : State) (p : Port) (y : Notice) : (s.raise p y).freeList = s.freeList := by simp [State.raise]
@[simp] theorem State.raise_sharedIndex (s : State) (p : Port) (y : Notice) : (s.raise p y).sharedIndex = s.sharedIndex := by simp [State.raise]
@[simp] theorem State.raise_slots (s : State) (p : Port) (y : Notice) : (s.raise p y).slots = s.slots := by simp [State.raise]
@[simp] theorem State.raise_config (s : State) (p : Port) (y : Notice) : (s.raise p y).config = s.config := by simp [State.raise]
@[simp] theorem State.raise_lastGranted (s : State) (p : Port) (y : Notice) : (s.raise p y).lastGranted = s.lastGranted := by simp [State.raise]
@[simp] theorem State.raise_queue (s : State) (p : Port) (y : Notice) : (s.raise p y).queue = s.queue := by simp [State.raise]
@[simp] theorem State.raise_nextBatch (s : State) (p : Port) (y : Notice) : (s.raise p y).nextBatch = s.nextBatch := by simp [State.raise]
@[simp] theorem State.raise_commit (s : State) (p : Port) (y : Notice) : (s.raise p y).commit = s.commit := by simp [State.raise]
@[simp] theorem State.raise_display (s : State) (p : Port) (y : Notice) : (s.raise p y).display = s.display := by simp [State.raise]
@[simp] theorem State.raise_scan (s : State) (p : Port) (y : Notice) : (s.raise p y).scan = s.scan := by simp [State.raise]
@[simp] theorem State.raise_controlPort (s : State) (p : Port) (y : Notice) : (s.raise p y).controlPort = s.controlPort := by simp [State.raise]
@[simp] theorem State.raise_pending (s : State) (p : Port) (y : Notice) : (s.raise p y).pending = s.pending := by simp [State.raise]
@[simp] theorem State.raise_cell (s : State) (p : Port) (y : Notice) (x : CellNo) : (s.raise p y).cell x = s.cell x := by simp [State.cell]
@[simp] theorem State.raise_slot (s : State) (p : Port) (y : Notice) (x : SlotNo) : (s.raise p y).slot x = s.slot x := by simp [State.slot]

/-! ### raiseBoth -/

@[simp] theorem State.raiseBoth_cells (s : State) (y : Notice) : (s.raiseBoth y).cells = s.cells := by simp [State.raiseBoth]
@[simp] theorem State.raiseBoth_freeList (s : State) (y : Notice) : (s.raiseBoth y).freeList = s.freeList := by simp [State.raiseBoth]
@[simp] theorem State.raiseBoth_sharedIndex (s : State) (y : Notice) : (s.raiseBoth y).sharedIndex = s.sharedIndex := by simp [State.raiseBoth]
@[simp] theorem State.raiseBoth_slots (s : State) (y : Notice) : (s.raiseBoth y).slots = s.slots := by simp [State.raiseBoth]
@[simp] theorem State.raiseBoth_config (s : State) (y : Notice) : (s.raiseBoth y).config = s.config := by simp [State.raiseBoth]
@[simp] theorem State.raiseBoth_lastGranted (s : State) (y : Notice) : (s.raiseBoth y).lastGranted = s.lastGranted := by simp [State.raiseBoth]
@[simp] theorem State.raiseBoth_queue (s : State) (y : Notice) : (s.raiseBoth y).queue = s.queue := by simp [State.raiseBoth]
@[simp] theorem State.raiseBoth_nextBatch (s : State) (y : Notice) : (s.raiseBoth y).nextBatch = s.nextBatch := by simp [State.raiseBoth]
@[simp] theorem State.raiseBoth_commit (s : State) (y : Notice) : (s.raiseBoth y).commit = s.commit := by simp [State.raiseBoth]
@[simp] theorem State.raiseBoth_display (s : State) (y : Notice) : (s.raiseBoth y).display = s.display := by simp [State.raiseBoth]
@[simp] theorem State.raiseBoth_scan (s : State) (y : Notice) : (s.raiseBoth y).scan = s.scan := by simp [State.raiseBoth]
@[simp] theorem State.raiseBoth_controlPort (s : State) (y : Notice) : (s.raiseBoth y).controlPort = s.controlPort := by simp [State.raiseBoth]
@[simp] theorem State.raiseBoth_pending (s : State) (y : Notice) : (s.raiseBoth y).pending = s.pending := by simp [State.raiseBoth]
@[simp] theorem State.raiseBoth_cell (s : State) (y : Notice) (x : CellNo) : (s.raiseBoth y).cell x = s.cell x := by simp [State.cell]
@[simp] theorem State.raiseBoth_slot (s : State) (y : Notice) (x : SlotNo) : (s.raiseBoth y).slot x = s.slot x := by simp [State.slot]

/-! ### beginCommit -/

@[simp] theorem State.beginCommit_cells (s : State)  : s.beginCommit.cells = s.cells := by unfold State.beginCommit; split <;> rfl
@[simp] theorem State.beginCommit_freeList (s : State)  : s.beginCommit.freeList = s.freeList := by unfold State.beginCommit; split <;> rfl
@[simp] theorem State.beginCommit_sharedIndex (s : State)  : s.beginCommit.sharedIndex = s.sharedIndex := by unfold State.beginCommit; split <;> rfl
@[simp] theorem State.beginCommit_slots (s : State)  : s.beginCommit.slots = s.slots := by unfold State.beginCommit; split <;> rfl
@[simp] theorem State.beginCommit_config (s : State)  : s.beginCommit.config = s.config := by unfold State.beginCommit; split <;> rfl
@[simp] theorem State.beginCommit_lastGranted (s : State)  : s.beginCommit.lastGranted = s.lastGranted := by unfold State.beginCommit; split <;> rfl
@[simp] theorem State.beginCommit_queue (s : State)  : s.beginCommit.queue = s.queue := by unfold State.beginCommit; split <;> rfl
@[simp] theorem State.beginCommit_nextBatch (s : State)  : s.beginCommit.nextBatch = s.nextBatch := by unfold State.beginCommit; split <;> rfl
@[simp] theorem State.beginCommit_display (s : State)  : s.beginCommit.display = s.display := by unfold State.beginCommit; split <;> rfl
@[simp] theorem State.beginCommit_scan (s : State)  : s.beginCommit.scan = s.scan := by unfold State.beginCommit; split <;> rfl
@[simp] theorem State.beginCommit_portA (s : State)  : s.beginCommit.portA = s.portA := by unfold State.beginCommit; split <;> rfl
@[simp] theorem State.beginCommit_portB (s : State)  : s.beginCommit.portB = s.portB := by unfold State.beginCommit; split <;> rfl
@[simp] theorem State.beginCommit_controlPort (s : State)  : s.beginCommit.controlPort = s.controlPort := by unfold State.beginCommit; split <;> rfl
@[simp] theorem State.beginCommit_pending (s : State)  : s.beginCommit.pending = s.pending := by unfold State.beginCommit; split <;> rfl
@[simp] theorem State.beginCommit_cell (s : State) (x : CellNo) : s.beginCommit.cell x = s.cell x := by simp [State.cell]
@[simp] theorem State.beginCommit_slot (s : State) (x : SlotNo) : s.beginCommit.slot x = s.slot x := by simp [State.slot]
@[simp] theorem State.beginCommit_port (s : State) (x : Port) : s.beginCommit.port x = s.port x := by cases x <;> simp [State.port]

/-! ### dropHolder -/

@[simp] theorem State.dropHolder_slots (s : State) (c : CellNo) (v : Colour) (h : Nat) : (s.dropHolder c v h).slots = s.slots := by unfold State.dropHolder; split <;> rfl
@[simp] theorem State.dropHolder_config (s : State) (c : CellNo) (v : Colour) (h : Nat) : (s.dropHolder c v h).config = s.config := by unfold State.dropHolder; split <;> rfl
@[simp] theorem State.dropHolder_lastGranted (s : State) (c : CellNo) (v : Colour) (h : Nat) : (s.dropHolder c v h).lastGranted = s.lastGranted := by unfold State.dropHolder; split <;> rfl
@[simp] theorem State.dropHolder_queue (s : State) (c : CellNo) (v : Colour) (h : Nat) : (s.dropHolder c v h).queue = s.queue := by unfold State.dropHolder; split <;> rfl
@[simp] theorem State.dropHolder_nextBatch (s : State) (c : CellNo) (v : Colour) (h : Nat) : (s.dropHolder c v h).nextBatch = s.nextBatch := by unfold State.dropHolder; split <;> rfl
@[simp] theorem State.dropHolder_commit (s : State) (c : CellNo) (v : Colour) (h : Nat) : (s.dropHolder c v h).commit = s.commit := by unfold State.dropHolder; split <;> rfl
@[simp] theorem State.dropHolder_display (s : State) (c : CellNo) (v : Colour) (h : Nat) : (s.dropHolder c v h).display = s.display := by unfold State.dropHolder; split <;> rfl
@[simp] theorem State.dropHolder_scan (s : State) (c : CellNo) (v : Colour) (h : Nat) : (s.dropHolder c v h).scan = s.scan := by unfold State.dropHolder; split <;> rfl
@[simp] theorem State.dropHolder_portA (s : State) (c : CellNo) (v : Colour) (h : Nat) : (s.dropHolder c v h).portA = s.portA := by unfold State.dropHolder; split <;> rfl
@[simp] theorem State.dropHolder_portB (s : State) (c : CellNo) (v : Colour) (h : Nat) : (s.dropHolder c v h).portB = s.portB := by unfold State.dropHolder; split <;> rfl
@[simp] theorem State.dropHolder_controlPort (s : State) (c : CellNo) (v : Colour) (h : Nat) : (s.dropHolder c v h).controlPort = s.controlPort := by unfold State.dropHolder; split <;> rfl
@[simp] theorem State.dropHolder_pending (s : State) (c : CellNo) (v : Colour) (h : Nat) : (s.dropHolder c v h).pending = s.pending := by unfold State.dropHolder; split <;> rfl
@[simp] theorem State.dropHolder_slot (s : State) (c : CellNo) (v : Colour) (h : Nat) (x : SlotNo) : (s.dropHolder c v h).slot x = s.slot x := by simp [State.slot]
@[simp] theorem State.dropHolder_port (s : State) (c : CellNo) (v : Colour) (h : Nat) (x : Port) : (s.dropHolder c v h).port x = s.port x := by cases x <;> simp [State.port]

/-! ### bindPrivate -/

@[simp] theorem State.bindPrivate_sharedIndex (s : State) (n : SlotNo) (i : Nat) (c : CellNo) (v : Colour) : (s.bindPrivate n i c v).sharedIndex = s.sharedIndex := by simp [State.bindPrivate]
@[simp] theorem State.bindPrivate_config (s : State) (n : SlotNo) (i : Nat) (c : CellNo) (v : Colour) : (s.bindPrivate n i c v).config = s.config := by simp [State.bindPrivate]
@[simp] theorem State.bindPrivate_lastGranted (s : State) (n : SlotNo) (i : Nat) (c : CellNo) (v : Colour) : (s.bindPrivate n i c v).lastGranted = s.lastGranted := by simp [State.bindPrivate]
@[simp] theorem State.bindPrivate_queue (s : State) (n : SlotNo) (i : Nat) (c : CellNo) (v : Colour) : (s.bindPrivate n i c v).queue = s.queue := by simp [State.bindPrivate]
@[simp] theorem State.bindPrivate_nextBatch (s : State) (n : SlotNo) (i : Nat) (c : CellNo) (v : Colour) : (s.bindPrivate n i c v).nextBatch = s.nextBatch := by simp [State.bindPrivate]
@[simp] theorem State.bindPrivate_commit (s : State) (n : SlotNo) (i : Nat) (c : CellNo) (v : Colour) : (s.bindPrivate n i c v).commit = s.commit := by simp [State.bindPrivate]
@[simp] theorem State.bindPrivate_display (s : State) (n : SlotNo) (i : Nat) (c : CellNo) (v : Colour) : (s.bindPrivate n i c v).display = s.display := by simp [State.bindPrivate]
@[simp] theorem State.bindPrivate_scan (s : State) (n : SlotNo) (i : Nat) (c : CellNo) (v : Colour) : (s.bindPrivate n i c v).scan = s.scan := by simp [State.bindPrivate]
@[simp] theorem State.bindPrivate_portA (s : State) (n : SlotNo) (i : Nat) (c : CellNo) (v : Colour) : (s.bindPrivate n i c v).portA = s.portA := by simp [State.bindPrivate]
@[simp] theorem State.bindPrivate_portB (s : State) (n : SlotNo) (i : Nat) (c : CellNo) (v : Colour) : (s.bindPrivate n i c v).portB = s.portB := by simp [State.bindPrivate]
@[simp] theorem State.bindPrivate_controlPort (s : State) (n : SlotNo) (i : Nat) (c : CellNo) (v : Colour) : (s.bindPrivate n i c v).controlPort = s.controlPort := by simp [State.bindPrivate]
@[simp] theorem State.bindPrivate_pending (s : State) (n : SlotNo) (i : Nat) (c : CellNo) (v : Colour) : (s.bindPrivate n i c v).pending = s.pending := by simp [State.bindPrivate]
@[simp] theorem State.bindPrivate_port (s : State) (n : SlotNo) (i : Nat) (c : CellNo) (v : Colour) (x : Port) : (s.bindPrivate n i c v).port x = s.port x := by cases x <;> simp [State.port]

/-! ### bindNewShared -/

@[simp] theorem State.bindNewShared_config (s : State) (n : SlotNo) (i : Nat) (c : CellNo) (v : Colour) : (s.bindNewShared n i c v).config = s.config := by simp [State.bindNewShared]
@[simp] theorem State.bindNewShared_lastGranted (s : State) (n : SlotNo) (i : Nat) (c : CellNo) (v : Colour) : (s.bindNewShared n i c v).lastGranted = s.lastGranted := by simp [State.bindNewShared]
@[simp] theorem State.bindNewShared_queue (s : State) (n : SlotNo) (i : Nat) (c : CellNo) (v : Colour) : (s.bindNewShared n i c v).queue = s.queue := by simp [State.bindNewShared]
@[simp] theorem State.bindNewShared_nextBatch (s : State) (n : SlotNo) (i : Nat) (c : CellNo) (v : Colour) : (s.bindNewShared n i c v).nextBatch = s.nextBatch := by simp [State.bindNewShared]
@[simp] theorem State.bindNewShared_commit (s : State) (n : SlotNo) (i : Nat) (c : CellNo) (v : Colour) : (s.bindNewShared n i c v).commit = s.commit := by simp [State.bindNewShared]
@[simp] theorem State.bindNewShared_display (s : State) (n : SlotNo) (i : Nat) (c : CellNo) (v : Colour) : (s.bindNewShared n i c v).display = s.display := by simp [State.bindNewShared]
@[simp] theorem State.bindNewShared_scan (s : State) (n : SlotNo) (i : Nat) (c : CellNo) (v : Colour) : (s.bindNewShared n i c v).scan = s.scan := by simp [State.bindNewShared]
@[simp] theorem State.bindNewShared_portA (s : State) (n : SlotNo) (i : Nat) (c : CellNo) (v : Colour) : (s.bindNewShared n i c v).portA = s.portA := by simp [State.bindNewShared]
@[simp] theorem State.bindNewShared_portB (s : State) (n : SlotNo) (i : Nat) (c : CellNo) (v : Colour) : (s.bindNewShared n i c v).portB = s.portB := by simp [State.bindNewShared]
@[simp] theorem State.bindNewShared_controlPort (s : State) (n : SlotNo) (i : Nat) (c : CellNo) (v : Colour) : (s.bindNewShared n i c v).controlPort = s.controlPort := by simp [State.bindNewShared]
@[simp] theorem State.bindNewShared_pending (s : State) (n : SlotNo) (i : Nat) (c : CellNo) (v : Colour) : (s.bindNewShared n i c v).pending = s.pending := by simp [State.bindNewShared]
@[simp] theorem State.bindNewShared_port (s : State) (n : SlotNo) (i : Nat) (c : CellNo) (v : Colour) (x : Port) : (s.bindNewShared n i c v).port x = s.port x := by cases x <;> simp [State.port]

/-! ### bindHeldShared -/

@[simp] theorem State.bindHeldShared_freeList (s : State) (n : SlotNo) (i : Nat) (c : CellNo) (v : Colour) : (s.bindHeldShared n i c v).freeList = s.freeList := by simp [State.bindHeldShared]
@[simp] theorem State.bindHeldShared_sharedIndex (s : State) (n : SlotNo) (i : Nat) (c : CellNo) (v : Colour) : (s.bindHeldShared n i c v).sharedIndex = s.sharedIndex := by simp [State.bindHeldShared]
@[simp] theorem State.bindHeldShared_config (s : State) (n : SlotNo) (i : Nat) (c : CellNo) (v : Colour) : (s.bindHeldShared n i c v).config = s.config := by simp [State.bindHeldShared]
@[simp] theorem State.bindHeldShared_lastGranted (s : State) (n : SlotNo) (i : Nat) (c : CellNo) (v : Colour) : (s.bindHeldShared n i c v).lastGranted = s.lastGranted := by simp [State.bindHeldShared]
@[simp] theorem State.bindHeldShared_queue (s : State) (n : SlotNo) (i : Nat) (c : CellNo) (v : Colour) : (s.bindHeldShared n i c v).queue = s.queue := by simp [State.bindHeldShared]
@[simp] theorem State.bindHeldShared_nextBatch (s : State) (n : SlotNo) (i : Nat) (c : CellNo) (v : Colour) : (s.bindHeldShared n i c v).nextBatch = s.nextBatch := by simp [State.bindHeldShared]
@[simp] theorem State.bindHeldShared_commit (s : State) (n : SlotNo) (i : Nat) (c : CellNo) (v : Colour) : (s.bindHeldShared n i c v).commit = s.commit := by simp [State.bindHeldShared]
@[simp] theorem State.bindHeldShared_display (s : State) (n : SlotNo) (i : Nat) (c : CellNo) (v : Colour) : (s.bindHeldShared n i c v).display = s.display := by simp [State.bindHeldShared]
@[simp] theorem State.bindHeldShared_scan (s : State) (n : SlotNo) (i : Nat) (c : CellNo) (v : Colour) : (s.bindHeldShared n i c v).scan = s.scan := by simp [State.bindHeldShared]
@[simp] theorem State.bindHeldShared_portA (s : State) (n : SlotNo) (i : Nat) (c : CellNo) (v : Colour) : (s.bindHeldShared n i c v).portA = s.portA := by simp [State.bindHeldShared]
@[simp] theorem State.bindHeldShared_portB (s : State) (n : SlotNo) (i : Nat) (c : CellNo) (v : Colour) : (s.bindHeldShared n i c v).portB = s.portB := by simp [State.bindHeldShared]
@[simp] theorem State.bindHeldShared_controlPort (s : State) (n : SlotNo) (i : Nat) (c : CellNo) (v : Colour) : (s.bindHeldShared n i c v).controlPort = s.controlPort := by simp [State.bindHeldShared]
@[simp] theorem State.bindHeldShared_pending (s : State) (n : SlotNo) (i : Nat) (c : CellNo) (v : Colour) : (s.bindHeldShared n i c v).pending = s.pending := by simp [State.bindHeldShared]
@[simp] theorem State.bindHeldShared_port (s : State) (n : SlotNo) (i : Nat) (c : CellNo) (v : Colour) (x : Port) : (s.bindHeldShared n i c v).port x = s.port x := by cases x <;> simp [State.port]

/-! ### releaseEntry -/

@[simp] theorem State.releaseEntry_config (s : State) (n : SlotNo) (i : Nat) : (s.releaseEntry n i).config = s.config := by
  unfold State.releaseEntry; split
  · rfl
  · split <;> simp
@[simp] theorem State.releaseEntry_lastGranted (s : State) (n : SlotNo) (i : Nat) : (s.releaseEntry n i).lastGranted = s.lastGranted := by
  unfold State.releaseEntry; split
  · rfl
  · split <;> simp
@[simp] theorem State.releaseEntry_queue (s : State) (n : SlotNo) (i : Nat) : (s.releaseEntry n i).queue = s.queue := by
  unfold State.releaseEntry; split
  · rfl
  · split <;> simp
@[simp] theorem State.releaseEntry_nextBatch (s : State) (n : SlotNo) (i : Nat) : (s.releaseEntry n i).nextBatch = s.nextBatch := by
  unfold State.releaseEntry; split
  · rfl
  · split <;> simp
@[simp] theorem State.releaseEntry_commit (s : State) (n : SlotNo) (i : Nat) : (s.releaseEntry n i).commit = s.commit := by
  unfold State.releaseEntry; split
  · rfl
  · split <;> simp
@[simp] theorem State.releaseEntry_display (s : State) (n : SlotNo) (i : Nat) : (s.releaseEntry n i).display = s.display := by
  unfold State.releaseEntry; split
  · rfl
  · split <;> simp
@[simp] theorem State.releaseEntry_scan (s : State) (n : SlotNo) (i : Nat) : (s.releaseEntry n i).scan = s.scan := by
  unfold State.releaseEntry; split
  · rfl
  · split <;> simp
@[simp] theorem State.releaseEntry_portA (s : State) (n : SlotNo) (i : Nat) : (s.releaseEntry n i).portA = s.portA := by
  unfold State.releaseEntry; split
  · rfl
  · split <;> simp
@[simp] theorem State.releaseEntry_portB (s : State) (n : SlotNo) (i : Nat) : (s.releaseEntry n i).portB = s.portB := by
  unfold State.releaseEntry; split
  · rfl
  · split <;> simp
@[simp] theorem State.releaseEntry_controlPort (s : State) (n : SlotNo) (i : Nat) : (s.releaseEntry n i).controlPort = s.controlPort := by
  unfold State.releaseEntry; split
  · rfl
  · split <;> simp
@[simp] theorem State.releaseEntry_pending (s : State) (n : SlotNo) (i : Nat) : (s.releaseEntry n i).pending = s.pending := by
  unfold State.releaseEntry; split
  · rfl
  · split <;> simp
@[simp] theorem State.releaseEntry_port (s : State) (n : SlotNo) (i : Nat) (x : Port) : (s.releaseEntry n i).port x = s.port x := by cases x <;> simp [State.port]

/-! ### releaseEntries -/

@[simp] theorem State.releaseEntries_config (s : State) (n : SlotNo) (is : List Nat) : (s.releaseEntries n is).config = s.config := by
  induction is generalizing s with
  | nil => rfl
  | cons i is ih => exact (ih _).trans (by simp)
@[simp] theorem State.releaseEntries_lastGranted (s : State) (n : SlotNo) (is : List Nat) : (s.releaseEntries n is).lastGranted = s.lastGranted := by
  induction is generalizing s with
  | nil => rfl
  | cons i is ih => exact (ih _).trans (by simp)
@[simp] theorem State.releaseEntries_queue (s : State) (n : SlotNo) (is : List Nat) : (s.releaseEntries n is).queue = s.queue := by
  induction is generalizing s with
  | nil => rfl
  | cons i is ih => exact (ih _).trans (by simp)
@[simp] theorem State.releaseEntries_nextBatch (s : State) (n : SlotNo) (is : List Nat) : (s.releaseEntries n is).nextBatch = s.nextBatch := by
  induction is generalizing s with
  | nil => rfl
  | cons i is ih => exact (ih _).trans (by simp)
@[simp] theorem State.releaseEntries_commit (s : State) (n : SlotNo) (is : List Nat) : (s.releaseEntries n is).commit = s.commit := by
  induction is generalizing s with
  | nil => rfl
  | cons i is ih => exact (ih _).trans (by simp)
@[simp] theorem State.releaseEntries_display (s : State) (n : SlotNo) (is : List Nat) : (s.releaseEntries n is).display = s.display := by
  induction is generalizing s with
  | nil => rfl
  | cons i is ih => exact (ih _).trans (by simp)
@[simp] theorem State.releaseEntries_scan (s : State) (n : SlotNo) (is : List Nat) : (s.releaseEntries n is).scan = s.scan := by
  induction is generalizing s with
  | nil => rfl
  | cons i is ih => exact (ih _).trans (by simp)
@[simp] theorem State.releaseEntries_portA (s : State) (n : SlotNo) (is : List Nat) : (s.releaseEntries n is).portA = s.portA := by
  induction is generalizing s with
  | nil => rfl
  | cons i is ih => exact (ih _).trans (by simp)
@[simp] theorem State.releaseEntries_portB (s : State) (n : SlotNo) (is : List Nat) : (s.releaseEntries n is).portB = s.portB := by
  induction is generalizing s with
  | nil => rfl
  | cons i is ih => exact (ih _).trans (by simp)
@[simp] theorem State.releaseEntries_controlPort (s : State) (n : SlotNo) (is : List Nat) : (s.releaseEntries n is).controlPort = s.controlPort := by
  induction is generalizing s with
  | nil => rfl
  | cons i is ih => exact (ih _).trans (by simp)
@[simp] theorem State.releaseEntries_pending (s : State) (n : SlotNo) (is : List Nat) : (s.releaseEntries n is).pending = s.pending := by
  induction is generalizing s with
  | nil => rfl
  | cons i is ih => exact (ih _).trans (by simp)
@[simp] theorem State.releaseEntries_port (s : State) (n : SlotNo) (is : List Nat) (x : Port) : (s.releaseEntries n is).port x = s.port x := by cases x <;> simp [State.port]

/-! ### drainSlot -/

@[simp] theorem State.drainSlot_config (s : State) (n : SlotNo) : (s.drainSlot n).config = s.config := by simp [State.drainSlot]
@[simp] theorem State.drainSlot_lastGranted (s : State) (n : SlotNo) : (s.drainSlot n).lastGranted = s.lastGranted := by simp [State.drainSlot]
@[simp] theorem State.drainSlot_queue (s : State) (n : SlotNo) : (s.drainSlot n).queue = s.queue := by simp [State.drainSlot]
@[simp] theorem State.drainSlot_nextBatch (s : State) (n : SlotNo) : (s.drainSlot n).nextBatch = s.nextBatch := by simp [State.drainSlot]
@[simp] theorem State.drainSlot_commit (s : State) (n : SlotNo) : (s.drainSlot n).commit = s.commit := by simp [State.drainSlot]
@[simp] theorem State.drainSlot_display (s : State) (n : SlotNo) : (s.drainSlot n).display = s.display := by simp [State.drainSlot]
@[simp] theorem State.drainSlot_scan (s : State) (n : SlotNo) : (s.drainSlot n).scan = s.scan := by simp [State.drainSlot]
@[simp] theorem State.drainSlot_portA (s : State) (n : SlotNo) : (s.drainSlot n).portA = s.portA := by simp [State.drainSlot]
@[simp] theorem State.drainSlot_portB (s : State) (n : SlotNo) : (s.drainSlot n).portB = s.portB := by simp [State.drainSlot]
@[simp] theorem State.drainSlot_controlPort (s : State) (n : SlotNo) : (s.drainSlot n).controlPort = s.controlPort := by simp [State.drainSlot]
@[simp] theorem State.drainSlot_pending (s : State) (n : SlotNo) : (s.drainSlot n).pending = s.pending := by simp [State.drainSlot]
@[simp] theorem State.drainSlot_port (s : State) (n : SlotNo) (x : Port) : (s.drainSlot n).port x = s.port x := by cases x <;> simp [State.port]

/-! ### setPrivValue -/

@[simp] theorem State.setPrivValue_freeList (s : State) (c : CellNo) (v : Colour) : (s.setPrivValue c v).freeList = s.freeList := by unfold State.setPrivValue; split <;> rfl
@[simp] theorem State.setPrivValue_sharedIndex (s : State) (c : CellNo) (v : Colour) : (s.setPrivValue c v).sharedIndex = s.sharedIndex := by unfold State.setPrivValue; split <;> rfl
@[simp] theorem State.setPrivValue_slots (s : State) (c : CellNo) (v : Colour) : (s.setPrivValue c v).slots = s.slots := by unfold State.setPrivValue; split <;> rfl
@[simp] theorem State.setPrivValue_config (s : State) (c : CellNo) (v : Colour) : (s.setPrivValue c v).config = s.config := by unfold State.setPrivValue; split <;> rfl
@[simp] theorem State.setPrivValue_lastGranted (s : State) (c : CellNo) (v : Colour) : (s.setPrivValue c v).lastGranted = s.lastGranted := by unfold State.setPrivValue; split <;> rfl
@[simp] theorem State.setPrivValue_queue (s : State) (c : CellNo) (v : Colour) : (s.setPrivValue c v).queue = s.queue := by unfold State.setPrivValue; split <;> rfl
@[simp] theorem State.setPrivValue_nextBatch (s : State) (c : CellNo) (v : Colour) : (s.setPrivValue c v).nextBatch = s.nextBatch := by unfold State.setPrivValue; split <;> rfl
@[simp] theorem State.setPrivValue_commit (s : State) (c : CellNo) (v : Colour) : (s.setPrivValue c v).commit = s.commit := by unfold State.setPrivValue; split <;> rfl
@[simp] theorem State.setPrivValue_display (s : State) (c : CellNo) (v : Colour) : (s.setPrivValue c v).display = s.display := by unfold State.setPrivValue; split <;> rfl
@[simp] theorem State.setPrivValue_scan (s : State) (c : CellNo) (v : Colour) : (s.setPrivValue c v).scan = s.scan := by unfold State.setPrivValue; split <;> rfl
@[simp] theorem State.setPrivValue_portA (s : State) (c : CellNo) (v : Colour) : (s.setPrivValue c v).portA = s.portA := by unfold State.setPrivValue; split <;> rfl
@[simp] theorem State.setPrivValue_portB (s : State) (c : CellNo) (v : Colour) : (s.setPrivValue c v).portB = s.portB := by unfold State.setPrivValue; split <;> rfl
@[simp] theorem State.setPrivValue_controlPort (s : State) (c : CellNo) (v : Colour) : (s.setPrivValue c v).controlPort = s.controlPort := by unfold State.setPrivValue; split <;> rfl
@[simp] theorem State.setPrivValue_pending (s : State) (c : CellNo) (v : Colour) : (s.setPrivValue c v).pending = s.pending := by unfold State.setPrivValue; split <;> rfl
@[simp] theorem State.setPrivValue_slot (s : State) (c : CellNo) (v : Colour) (x : SlotNo) : (s.setPrivValue c v).slot x = s.slot x := by simp [State.slot]
@[simp] theorem State.setPrivValue_port (s : State) (c : CellNo) (v : Colour) (x : Port) : (s.setPrivValue c v).port x = s.port x := by cases x <;> simp [State.port]

/-! ### raiseIfLow -/

@[simp] theorem State.raiseIfLow_cells (s : State) (k : Nat) : (s.raiseIfLow k).cells = s.cells := by unfold State.raiseIfLow; split <;> simp
@[simp] theorem State.raiseIfLow_freeList (s : State) (k : Nat) : (s.raiseIfLow k).freeList = s.freeList := by unfold State.raiseIfLow; split <;> simp
@[simp] theorem State.raiseIfLow_sharedIndex (s : State) (k : Nat) : (s.raiseIfLow k).sharedIndex = s.sharedIndex := by unfold State.raiseIfLow; split <;> simp
@[simp] theorem State.raiseIfLow_slots (s : State) (k : Nat) : (s.raiseIfLow k).slots = s.slots := by unfold State.raiseIfLow; split <;> simp
@[simp] theorem State.raiseIfLow_config (s : State) (k : Nat) : (s.raiseIfLow k).config = s.config := by unfold State.raiseIfLow; split <;> simp
@[simp] theorem State.raiseIfLow_lastGranted (s : State) (k : Nat) : (s.raiseIfLow k).lastGranted = s.lastGranted := by unfold State.raiseIfLow; split <;> simp
@[simp] theorem State.raiseIfLow_queue (s : State) (k : Nat) : (s.raiseIfLow k).queue = s.queue := by unfold State.raiseIfLow; split <;> simp
@[simp] theorem State.raiseIfLow_nextBatch (s : State) (k : Nat) : (s.raiseIfLow k).nextBatch = s.nextBatch := by unfold State.raiseIfLow; split <;> simp
@[simp] theorem State.raiseIfLow_commit (s : State) (k : Nat) : (s.raiseIfLow k).commit = s.commit := by unfold State.raiseIfLow; split <;> simp
@[simp] theorem State.raiseIfLow_display (s : State) (k : Nat) : (s.raiseIfLow k).display = s.display := by unfold State.raiseIfLow; split <;> simp
@[simp] theorem State.raiseIfLow_scan (s : State) (k : Nat) : (s.raiseIfLow k).scan = s.scan := by unfold State.raiseIfLow; split <;> simp
@[simp] theorem State.raiseIfLow_controlPort (s : State) (k : Nat) : (s.raiseIfLow k).controlPort = s.controlPort := by unfold State.raiseIfLow; split <;> simp
@[simp] theorem State.raiseIfLow_pending (s : State) (k : Nat) : (s.raiseIfLow k).pending = s.pending := by unfold State.raiseIfLow; split <;> simp
@[simp] theorem State.raiseIfLow_cell (s : State) (k : Nat) (x : CellNo) : (s.raiseIfLow k).cell x = s.cell x := by simp [State.cell]
@[simp] theorem State.raiseIfLow_slot (s : State) (k : Nat) (x : SlotNo) : (s.raiseIfLow k).slot x = s.slot x := by simp [State.slot]

/-! ### raiseRevoked -/

@[simp] theorem State.raiseRevoked_cells (s : State) (n : SlotNo) (o : Option Port) : (s.raiseRevoked n o).cells = s.cells := by cases o <;> simp [State.raiseRevoked]
@[simp] theorem State.raiseRevoked_freeList (s : State) (n : SlotNo) (o : Option Port) : (s.raiseRevoked n o).freeList = s.freeList := by cases o <;> simp [State.raiseRevoked]
@[simp] theorem State.raiseRevoked_sharedIndex (s : State) (n : SlotNo) (o : Option Port) : (s.raiseRevoked n o).sharedIndex = s.sharedIndex := by cases o <;> simp [State.raiseRevoked]
@[simp] theorem State.raiseRevoked_slots (s : State) (n : SlotNo) (o : Option Port) : (s.raiseRevoked n o).slots = s.slots := by cases o <;> simp [State.raiseRevoked]
@[simp] theorem State.raiseRevoked_config (s : State) (n : SlotNo) (o : Option Port) : (s.raiseRevoked n o).config = s.config := by cases o <;> simp [State.raiseRevoked]
@[simp] theorem State.raiseRevoked_lastGranted (s : State) (n : SlotNo) (o : Option Port) : (s.raiseRevoked n o).lastGranted = s.lastGranted := by cases o <;> simp [State.raiseRevoked]
@[simp] theorem State.raiseRevoked_queue (s : State) (n : SlotNo) (o : Option Port) : (s.raiseRevoked n o).queue = s.queue := by cases o <;> simp [State.raiseRevoked]
@[simp] theorem State.raiseRevoked_nextBatch (s : State) (n : SlotNo) (o : Option Port) : (s.raiseRevoked n o).nextBatch = s.nextBatch := by cases o <;> simp [State.raiseRevoked]
@[simp] theorem State.raiseRevoked_commit (s : State) (n : SlotNo) (o : Option Port) : (s.raiseRevoked n o).commit = s.commit := by cases o <;> simp [State.raiseRevoked]
@[simp] theorem State.raiseRevoked_display (s : State) (n : SlotNo) (o : Option Port) : (s.raiseRevoked n o).display = s.display := by cases o <;> simp [State.raiseRevoked]
@[simp] theorem State.raiseRevoked_scan (s : State) (n : SlotNo) (o : Option Port) : (s.raiseRevoked n o).scan = s.scan := by cases o <;> simp [State.raiseRevoked]
@[simp] theorem State.raiseRevoked_controlPort (s : State) (n : SlotNo) (o : Option Port) : (s.raiseRevoked n o).controlPort = s.controlPort := by cases o <;> simp [State.raiseRevoked]
@[simp] theorem State.raiseRevoked_pending (s : State) (n : SlotNo) (o : Option Port) : (s.raiseRevoked n o).pending = s.pending := by cases o <;> simp [State.raiseRevoked]
@[simp] theorem State.raiseRevoked_cell (s : State) (n : SlotNo) (o : Option Port) (x : CellNo) : (s.raiseRevoked n o).cell x = s.cell x := by simp [State.cell]
@[simp] theorem State.raiseRevoked_slot (s : State) (n : SlotNo) (o : Option Port) (x : SlotNo) : (s.raiseRevoked n o).slot x = s.slot x := by simp [State.slot]

/-! ### commitDoneAt -/

@[simp] theorem State.commitDoneAt_cells (s : State) (p : Port) : (s.commitDoneAt p).cells = s.cells := by unfold State.commitDoneAt; split <;> simp
@[simp] theorem State.commitDoneAt_freeList (s : State) (p : Port) : (s.commitDoneAt p).freeList = s.freeList := by unfold State.commitDoneAt; split <;> simp
@[simp] theorem State.commitDoneAt_sharedIndex (s : State) (p : Port) : (s.commitDoneAt p).sharedIndex = s.sharedIndex := by unfold State.commitDoneAt; split <;> simp
@[simp] theorem State.commitDoneAt_slots (s : State) (p : Port) : (s.commitDoneAt p).slots = s.slots := by unfold State.commitDoneAt; split <;> simp
@[simp] theorem State.commitDoneAt_config (s : State) (p : Port) : (s.commitDoneAt p).config = s.config := by unfold State.commitDoneAt; split <;> simp
@[simp] theorem State.commitDoneAt_lastGranted (s : State) (p : Port) : (s.commitDoneAt p).lastGranted = s.lastGranted := by unfold State.commitDoneAt; split <;> simp
@[simp] theorem State.commitDoneAt_queue (s : State) (p : Port) : (s.commitDoneAt p).queue = s.queue := by unfold State.commitDoneAt; split <;> simp
@[simp] theorem State.commitDoneAt_nextBatch (s : State) (p : Port) : (s.commitDoneAt p).nextBatch = s.nextBatch := by unfold State.commitDoneAt; split <;> simp
@[simp] theorem State.commitDoneAt_commit (s : State) (p : Port) : (s.commitDoneAt p).commit = s.commit := by unfold State.commitDoneAt; split <;> simp
@[simp] theorem State.commitDoneAt_display (s : State) (p : Port) : (s.commitDoneAt p).display = s.display := by unfold State.commitDoneAt; split <;> simp
@[simp] theorem State.commitDoneAt_scan (s : State) (p : Port) : (s.commitDoneAt p).scan = s.scan := by unfold State.commitDoneAt; split <;> simp
@[simp] theorem State.commitDoneAt_controlPort (s : State) (p : Port) : (s.commitDoneAt p).controlPort = s.controlPort := by unfold State.commitDoneAt; split <;> simp
@[simp] theorem State.commitDoneAt_pending (s : State) (p : Port) : (s.commitDoneAt p).pending = s.pending := by unfold State.commitDoneAt; split <;> simp
@[simp] theorem State.commitDoneAt_cell (s : State) (p : Port) (x : CellNo) : (s.commitDoneAt p).cell x = s.cell x := by simp [State.cell]
@[simp] theorem State.commitDoneAt_slot (s : State) (p : Port) (x : SlotNo) : (s.commitDoneAt p).slot x = s.slot x := by simp [State.slot]

/-! ### noteRasterIdle -/

@[simp] theorem State.noteRasterIdle_cells (s : State)  : s.noteRasterIdle.cells = s.cells := by unfold State.noteRasterIdle; split <;> simp
@[simp] theorem State.noteRasterIdle_freeList (s : State)  : s.noteRasterIdle.freeList = s.freeList := by unfold State.noteRasterIdle; split <;> simp
@[simp] theorem State.noteRasterIdle_sharedIndex (s : State)  : s.noteRasterIdle.sharedIndex = s.sharedIndex := by unfold State.noteRasterIdle; split <;> simp
@[simp] theorem State.noteRasterIdle_slots (s : State)  : s.noteRasterIdle.slots = s.slots := by unfold State.noteRasterIdle; split <;> simp
@[simp] theorem State.noteRasterIdle_config (s : State)  : s.noteRasterIdle.config = s.config := by unfold State.noteRasterIdle; split <;> simp
@[simp] theorem State.noteRasterIdle_lastGranted (s : State)  : s.noteRasterIdle.lastGranted = s.lastGranted := by unfold State.noteRasterIdle; split <;> simp
@[simp] theorem State.noteRasterIdle_queue (s : State)  : s.noteRasterIdle.queue = s.queue := by unfold State.noteRasterIdle; split <;> simp
@[simp] theorem State.noteRasterIdle_nextBatch (s : State)  : s.noteRasterIdle.nextBatch = s.nextBatch := by unfold State.noteRasterIdle; split <;> simp
@[simp] theorem State.noteRasterIdle_display (s : State)  : s.noteRasterIdle.display = s.display := by unfold State.noteRasterIdle; split <;> simp
@[simp] theorem State.noteRasterIdle_scan (s : State)  : s.noteRasterIdle.scan = s.scan := by unfold State.noteRasterIdle; split <;> simp
@[simp] theorem State.noteRasterIdle_controlPort (s : State)  : s.noteRasterIdle.controlPort = s.controlPort := by unfold State.noteRasterIdle; split <;> simp
@[simp] theorem State.noteRasterIdle_pending (s : State)  : s.noteRasterIdle.pending = s.pending := by unfold State.noteRasterIdle; split <;> simp
@[simp] theorem State.noteRasterIdle_cell (s : State) (x : CellNo) : s.noteRasterIdle.cell x = s.cell x := by simp [State.cell]
@[simp] theorem State.noteRasterIdle_slot (s : State) (x : SlotNo) : s.noteRasterIdle.slot x = s.slot x := by simp [State.slot]

end Sys2Proof.Machine
end

