-- ==== Sys2Proof/Laws/Ops.lean ====
section
/-! SUPPORT. What the shared operations do, said once each: the entries, the notice sets, the staging
queue, the display copies, the shared-value index, the release of an entry, the commit. -/

namespace Sys2Proof.Machine

/-! ## Entries -/

theorem State.entry_setEntry (s : State) (n m : SlotNo) (i j : Nat) (e : Option CellNo) :
    (s.setEntry n i e).entry m j =
      if m = n ∧ j = i ∧ i < (s.slot n).entries.length then e else s.entry m j := by
  unfold State.entry
  rw [State.slot_setEntry]
  by_cases hm : m = n
  · subst hm
    by_cases hj : j = i
    · subst hj
      by_cases hl : j < (s.slot m).entries.length
      · simp [hl]
      · simp [hl, List.set_eq_of_length_le (Nat.le_of_not_lt hl)]
    · have : i ≠ j := fun h => hj h.symm
      simp [hj, List.getElem?_set_ne this]
  · simp [hm]

@[simp] theorem State.entry_setPrivCount (s : State) (n m : SlotNo) (k j : Nat) :
    (s.setPrivCount n k).entry m j = s.entry m j := by
  unfold State.entry
  rw [State.slot_setPrivCount]
  split
  · subst m; rfl
  · rfl

@[simp] theorem State.entry_setSharedCount (s : State) (n m : SlotNo) (k j : Nat) :
    (s.setSharedCount n k).entry m j = s.entry m j := by
  unfold State.entry
  rw [State.slot_setSharedCount]
  split
  · subst m; rfl
  · rfl

/-- An entry that names a cell stands within the entry list. -/
theorem State.entry_lt (s : State) {n : SlotNo} {i : Nat} {c : CellNo} (h : s.entry n i = some c) :
    i < (s.slot n).entries.length := by
  by_contra hl
  simp [State.entry, Nat.le_of_not_lt hl] at h

/-! ## Notices (R162, R163) -/

@[simp] theorem noticeKind_updateNotice (x y : Notice) (h : noticeKind x = noticeKind y) :
    noticeKind (updateNotice x y) = noticeKind y := by
  cases x <;> cases y <;> simp_all [updateNotice, noticeKind]

/-- A present kind is brought up to date in its place, whatever the mask. -/
theorem takeRaise_present {m : NoticeMask} {l : List Notice} {x : Notice}
    (h : ∃ y ∈ l, noticeKind y = noticeKind x) :
    takeRaise m l x = l.map fun n => if noticeKind n = noticeKind x then updateNotice n x else n := by
  simp [takeRaise, h]

/-- An absent kind that the mask enables is added at the tail. -/
theorem takeRaise_added {m : NoticeMask} {l : List Notice} {x : Notice}
    (h : ∀ y ∈ l, noticeKind y ≠ noticeKind x) (he : m.enables (noticeKind x) = true) :
    takeRaise m l x = l ++ [x] := by
  have : ¬ ∃ y ∈ l, noticeKind y = noticeKind x := by simpa using h
  simp [takeRaise, this, he]

/-- An absent kind that the mask disables leaves no trace. -/
theorem takeRaise_ignored {m : NoticeMask} {l : List Notice} {x : Notice}
    (h : ∀ y ∈ l, noticeKind y ≠ noticeKind x) (he : m.enables (noticeKind x) = false) :
    takeRaise m l x = l := by
  have : ¬ ∃ y ∈ l, noticeKind y = noticeKind x := by simpa using h
  simp [takeRaise, this, he]

/-- Every raise leaves at most one notice of each kind (R160). -/
theorem takeRaise_nodup (m : NoticeMask) (l : List Notice) (x : Notice) (h : (l.map noticeKind).Nodup) :
    ((takeRaise m l x).map noticeKind).Nodup := by
  by_cases hp : ∃ y ∈ l, noticeKind y = noticeKind x
  · have hk : (fun n => noticeKind (if noticeKind n = noticeKind x then updateNotice n x else n)) = noticeKind := by
      funext n
      split
      · simp_all
      · rfl
    rw [takeRaise_present hp, List.map_map]
    simpa [Function.comp_def, hk] using h
  · push Not at hp
    cases he : m.enables (noticeKind x)
    · rwa [takeRaise_ignored hp he]
    · rw [takeRaise_added hp he, List.map_append, List.nodup_append]
      refine ⟨h, by simp, ?_⟩
      intro a ha b hb
      obtain ⟨y, hy, rfl⟩ := List.mem_map.1 ha
      simp only [List.map_cons, List.map_nil, List.mem_singleton] at hb
      subst hb
      exact hp y hy

theorem State.port_raise (s : State) (p q : Port) (x : Notice) :
    (s.raise p x).port q =
      if q = p then { s.port p with notices := takeRaise (s.port p).mask (s.port p).notices x } else s.port q :=
  s.port_setPort p q _

theorem State.port_raiseBoth (s : State) (q : Port) (x : Notice) :
    (s.raiseBoth x).port q = { s.port q with notices := takeRaise (s.port q).mask (s.port q).notices x } := by
  cases q <;> rfl

/-! ## Staging queue (R75, R78, R79) -/

@[simp] theorem State.queue_appendBatch (s : State) (p : Port) (es : List Edit) :
    (s.appendBatch p es).queue = s.queue ++ [⟨s.nextBatch, p, es⟩] := rfl

@[simp] theorem State.nextBatch_appendBatch (s : State) (p : Port) (es : List Edit) :
    (s.appendBatch p es).nextBatch = nextNumber s.nextBatch := rfl

@[simp] theorem editsIn_nil : editsIn [] = 0 := rfl

@[simp] theorem editsIn_cons (b : Batch) (q : List Batch) : editsIn (b :: q) = b.edits.length + editsIn q := by
  simp [editsIn]

@[simp] theorem editsIn_append (q r : List Batch) : editsIn (q ++ r) = editsIn q + editsIn r := by
  simp [editsIn]

/-- A batch appended with the number that comes next keeps the numbers in sequence. -/
theorem numbered_append {mark : Nat} {q : List Batch} {next : Nat} (h : numbered mark q next) (p : Port)
    (es : List Edit) : numbered mark (q ++ [⟨next, p, es⟩]) (nextNumber next) := by
  induction q generalizing mark with
  | nil => exact ⟨h, rfl⟩
  | cons b q ih => exact ⟨h.1, ih h.2⟩

/-- The number that comes next is a batch number, 1 to 65535. -/
theorem numbered_next_range {mark : Nat} {q : List Batch} {next : Nat} (hm : mark ≤ 65535)
    (h : numbered mark q next) : 1 ≤ next ∧ next ≤ 65535 := by
  have step : ∀ k, k ≤ 65535 → 1 ≤ nextNumber k ∧ nextNumber k ≤ 65535 := by
    intro k hk
    simp only [nextNumber, Config.lastBatchNumber]
    split <;> omega
  induction q generalizing mark with
  | nil =>
    have e : next = nextNumber mark := h
    exact e ▸ step mark hm
  | cons b q ih => exact ih (h.1 ▸ (step mark hm).2) h.2

/-! ## Display copies (R76) -/

@[simp] theorem Display.applyEdits_nil (d : Display) : d.applyEdits [] = d := rfl

@[simp] theorem Display.applyEdits_cons (d : Display) (e : Edit) (es : List Edit) :
    d.applyEdits (e :: es) = (d.applyEdit e).applyEdits es := rfl

theorem Display.applyEdits_append (d : Display) (es fs : List Edit) :
    d.applyEdits (es ++ fs) = (d.applyEdits es).applyEdits fs := List.foldl_append

@[simp] theorem queuedEdits_appendBatch (s : State) (p : Port) (es : List Edit) :
    queuedEdits (s.appendBatch p es) = queuedEdits s ++ es := by
  simp [queuedEdits]

theorem Display.slots_setSlot (d : Display) (n m : SlotNo) (x : SlotDisplay) :
    (d.setSlot n x).slots[m] = if m = n then x else d.slots[m] := by
  by_cases h : m = n
  · subst h; simp [Display.setSlot]
  · have : n.val ≠ m.val := fun e => h (Fin.ext e.symm)
    simp [Display.setSlot, this, h]

@[simp] theorem Display.cells_setSlot (d : Display) (n : SlotNo) (x : SlotDisplay) :
    (d.setSlot n x).cells = d.cells := rfl

@[simp] theorem Display.bands_setSlot (d : Display) (n : SlotNo) (x : SlotDisplay) :
    (d.setSlot n x).bands = d.bands := rfl

@[simp] theorem Display.blank_setSlot (d : Display) (n : SlotNo) (x : SlotDisplay) :
    (d.setSlot n x).blank = d.blank := rfl

theorem Display.setSlot_becomes (d : Display) (n : SlotNo) (x : SlotDisplay) :
    ShownSlotBecomes d (d.setSlot n x) n x where
  rest := rfl
  slot := by rw [Display.slots_setSlot, if_pos rfl]
  others m hm := by rw [Display.slots_setSlot, if_neg hm]

/-- One edit does to the display copies what Table 4-1 says. -/
theorem Display.applyEdit_effect (d : Display) (e : Edit) : EditEffect d (d.applyEdit e) e := by
  cases e with
  | cellValue c v =>
    refine ⟨rfl, by simp [Display.applyEdit], fun x hx => ?_⟩
    have : c.val ≠ x.val := fun h => hx (Fin.ext h.symm)
    simp [Display.applyEdit, this]
  | band k r =>
    refine ⟨rfl, by simp [Display.applyEdit], fun j hj => ?_⟩
    have : k.val ≠ j.val := fun h => hj (Fin.ext h.symm)
    simp [Display.applyEdit, this]
  | blank v => rfl
  | _ => exact d.setSlot_becomes ..

/-- Edits without a BAND leave the band table alone (R116). -/
theorem Display.bands_applyEdits (d : Display) (es : List Edit) (h : ∀ k r, Edit.band k r ∉ es) :
    (d.applyEdits es).bands = d.bands := by
  induction es generalizing d with
  | nil => rfl
  | cons e es ih =>
    rw [Display.applyEdits_cons, ih _ fun k r hm => h k r (List.mem_cons_of_mem e hm)]
    cases e with
    | band k r => exact absurd List.mem_cons_self (h k r)
    | _ => rfl

/-- The bands to come after one more batch are those to come before it, with its edits applied. -/
theorem bandsToCome_appendBatch (s : State) (p : Port) (es : List Edit) :
    bandsToCome (s.appendBatch p es) = ((s.display.applyEdits (queuedEdits s)).applyEdits es).bands := by
  rw [bandsToCome, queuedEdits_appendBatch, ← Display.applyEdits_append]
  rfl

/-- Of one edit, only MAP_CLOSE reaches the working parts, and only a DRAINING slot (R41). -/
theorem closeDrained_get (v : Vector Slot 8) (e : Edit) (m : SlotNo) :
    (closeDrained v e)[m] =
      if e = .mapClose m ∧ v[m].state = .draining then
        { v[m] with state := .closed, owner := none, entries := [] }
      else v[m] := by
  cases e with
  | mapClose n =>
    simp only [closeDrained, Edit.mapClose.injEq, Fin.getElem_fin]
    by_cases hm : n = m
    · subst hm
      by_cases hd : v[n.val].state = .draining <;> simp [hd]
    · have h2 : n.val ≠ m.val := fun e => hm (Fin.ext e)
      split <;> simp [hm, h2]
  | _ => simp [closeDrained]

/-! ## The shared-value index (R15, R16) -/

theorem mem_indexInsert (v : Colour) (c : CellNo) (l : List (Colour × CellNo)) (x : Colour × CellNo) :
    x ∈ indexInsert v c l ↔ x = (v, c) ∨ x ∈ l := by
  induction l with
  | nil => simp [indexInsert]
  | cons y l ih =>
    obtain ⟨w, d⟩ := y
    simp only [indexInsert]
    split
    · simp
    · rw [List.mem_cons, ih, List.mem_cons]
      tauto

/-- The index stays sorted by cell number when the cell was not in it. -/
theorem indexInsert_sorted (v : Colour) (c : CellNo) (l : List (Colour × CellNo))
    (hs : (l.map fun x => x.2).Pairwise (· < ·)) (hc : ∀ x ∈ l, x.2 ≠ c) :
    ((indexInsert v c l).map fun x => x.2).Pairwise (· < ·) := by
  induction l with
  | nil => simp [indexInsert]
  | cons y l ih =>
    obtain ⟨w, d⟩ := y
    simp only [List.map_cons, List.pairwise_cons] at hs
    have hd : d ≠ c := hc (w, d) (by simp)
    simp only [indexInsert]
    split
    · rename_i hlt
      simp only [List.map_cons, List.pairwise_cons, List.mem_cons]
      refine ⟨?_, hs.1, hs.2⟩
      rintro a (rfl | ha)
      · exact hlt
      · exact hlt.trans (hs.1 a ha)
    · rename_i hlt
      simp only [List.map_cons, List.pairwise_cons]
      refine ⟨?_, ih hs.2 fun x hx => hc x (by simp [hx])⟩
      intro a ha
      obtain ⟨x, hx, rfl⟩ := List.mem_map.1 ha
      rcases (mem_indexInsert v c l x).1 hx with rfl | hx
      · exact lt_of_le_of_ne (not_lt.1 hlt) hd
      · exact hs.1 _ (List.mem_map_of_mem hx)

theorem indexInsert_values (v : Colour) (c : CellNo) (l : List (Colour × CellNo))
    (hs : (l.map fun x => x.1).Nodup) (hv : ∀ x ∈ l, x.1 ≠ v) :
    ((indexInsert v c l).map fun x => x.1).Nodup := by
  induction l with
  | nil => simp [indexInsert]
  | cons y l ih =>
    obtain ⟨w, d⟩ := y
    simp only [List.map_cons, List.nodup_cons] at hs
    have hw : w ≠ v := hv (w, d) (by simp)
    simp only [indexInsert]
    split
    · simp only [List.map_cons, List.nodup_cons, List.mem_cons]
      refine ⟨?_, hs.1, hs.2⟩
      rintro (h | h)
      · exact hw h.symm
      · obtain ⟨x, hx, e⟩ := List.mem_map.1 h
        exact hv x (by simp [hx]) e
    · simp only [List.map_cons, List.nodup_cons]
      refine ⟨?_, ih hs.2 fun x hx => hv x (by simp [hx])⟩
      intro h
      obtain ⟨x, hx, e⟩ := List.mem_map.1 h
      rcases (mem_indexInsert v c l x).1 hx with rfl | hx
      · exact hw e.symm
      · exact hs.1 (List.mem_map.2 ⟨x, hx, e⟩)

/-- A lookup that finds a cell finds its pair. -/
theorem State.lookup_some {s : State} {v : Colour} {c : CellNo} (h : s.lookup v = some c) :
    (v, c) ∈ s.sharedIndex := by
  unfold State.lookup at h
  obtain ⟨x, hx, rfl⟩ := Option.map_eq_some_iff.1 h
  have hv : x.1 = v := by simpa using List.find?_some hx
  exact hv ▸ List.mem_of_find?_eq_some hx

/-- A lookup that finds nothing: no pair holds the value. -/
theorem State.lookup_none {s : State} {v : Colour} :
    s.lookup v = none ↔ ∀ x ∈ s.sharedIndex, x.1 ≠ v := by
  simp [State.lookup, Option.map_eq_none_iff, List.find?_eq_none]

/-! ## Releasing an entry (R60) -/

theorem State.releaseEntry_unbound {s : State} {n : SlotNo} {i : Nat} (h : s.entry n i = none) :
    s.releaseEntry n i = s := by
  simp [State.releaseEntry, h]

theorem State.releaseEntry_priv {s : State} {n : SlotNo} {i : Nat} {c : CellNo} {v : Colour} {m : SlotNo} {j : Nat}
    (h : s.entry n i = some c) (hc : s.cell c = .priv v m j) :
    s.releaseEntry n i =
      ((s.setEntry n i none).freeCell c).setPrivCount n (((s.setEntry n i none).slot n).privCount - 1) := by
  simp [State.releaseEntry, h, hc]

theorem State.releaseEntry_shared {s : State} {n : SlotNo} {i : Nat} {c : CellNo} {v : Colour} {k : Nat}
    (h : s.entry n i = some c) (hc : s.cell c = .shared v k) :
    s.releaseEntry n i =
      ((s.setEntry n i none).dropHolder c v k).setSharedCount n
        (((s.setEntry n i none).slot n).sharedCount - 1) := by
  simp [State.releaseEntry, h, hc]

@[simp] theorem State.releaseEntries_nil (s : State) (n : SlotNo) : s.releaseEntries n [] = s := rfl

@[simp] theorem State.releaseEntries_cons (s : State) (n : SlotNo) (i : Nat) (is : List Nat) :
    s.releaseEntries n (i :: is) = (s.releaseEntry n i).releaseEntries n is := rfl

theorem State.mem_boundAmong {s : State} {n : SlotNo} {is : List Nat} {i : Nat} :
    i ∈ s.boundAmong n is ↔ i ∈ is ∧ ∃ c, s.entry n i = some c := by
  simp [State.boundAmong, Option.isSome_iff_exists]

/-! ## The commit (R83, R85, R89) -/

/-- A commit begins exactly from IDLE with a batch in the queue. -/
theorem State.beginCommit_begins {s : State} (hi : s.commit.state = .idle) (hq : s.queue ≠ []) :
    s.beginCommit = { s with
      commit := { s.commit with state := .applying, served := ⟨false, false⟩, cutPending := false } } := by
  simp [State.beginCommit, hi, hq]

theorem State.beginCommit_stays {s : State} (h : s.commit.state = .applying ∨ s.queue = []) :
    s.beginCommit = s := by
  unfold State.beginCommit
  split
  · rename_i hc
    rcases h with h | h
    · simp [h] at hc
    · exact absurd h hc.2
  · rfl

/-- The batch applied event ends the commit, or the next batch is in application. -/
theorem State.continueCommit_cases (s : State) :
    (s.continueCommit = s.endCommit ∧ (s.commit.cutPending = true ∨ s.queue = [])) ∨
      (s.continueCommit = s ∧ s.commit.cutPending = false ∧ s.queue ≠ []) := by
  unfold State.continueCommit
  split
  · exact .inl ⟨rfl, ‹_›⟩
  · rename_i h
    push Not at h
    exact .inr ⟨rfl, by simpa using h.1, h.2⟩

theorem State.endCommit_commit (s : State) : s.endCommit.commit = { s.commit with state := .idle } := by
  simp [State.endCommit]

theorem State.commitDoneAt_port (s : State) (p q : Port) :
    (s.commitDoneAt p).port q =
      if q = p ∧ s.commit.served.has p = true then
        { s.port p with notices := takeRaise (s.port p).mask (s.port p).notices (.commitDone s.commit.appliedMark) }
      else s.port q := by
  unfold State.commitDoneAt
  split
  · simp [State.port_raise, *]
  · simp [*]

/-- COMMIT_DONE is offered at exactly the ports served (R89). -/
theorem State.endCommit_port (s : State) (q : Port) :
    s.endCommit.port q =
      if s.commit.served.has q = true then
        { s.port q with notices := takeRaise (s.port q).mask (s.port q).notices (.commitDone s.commit.appliedMark) }
      else s.port q := by
  have key : ∀ t : State, ((t.commitDoneAt .a).commitDoneAt .b).port q =
      if t.commit.served.has q = true then
        { t.port q with notices := takeRaise (t.port q).mask (t.port q).notices (.commitDone t.commit.appliedMark) }
      else t.port q := by
    intro t
    rw [State.commitDoneAt_port]
    cases q <;> simp [State.commitDoneAt_port]
  exact key _

/-! ## Band selection (R108) -/

/-- The chosen band is one of the enabled bands at or above the line, and none of them begins after
it. -/
theorem betterBand_foldl (line : Nat) (l : List Band) (best : Option Band)
    (hb : ∀ x ∈ best, x.enabled = true ∧ x.firstLine ≤ line) :
    (∀ x ∈ l.foldl (betterBand line) best, x.enabled = true ∧ x.firstLine ≤ line) ∧
      (∀ y, (y ∈ l ∧ y.enabled = true ∧ y.firstLine ≤ line) ∨ y ∈ best →
        ∃ x ∈ l.foldl (betterBand line) best, y.firstLine ≤ x.firstLine) := by
  induction l generalizing best with
  | nil =>
    refine ⟨hb, ?_⟩
    rintro y (⟨h, _⟩ | h)
    · simp at h
    · exact ⟨y, h, le_rfl⟩
  | cons b l ih =>
    have hstep : ∀ x ∈ betterBand line best b, x.enabled = true ∧ x.firstLine ≤ line := by
      intro x hx
      unfold betterBand at hx
      split at hx
      · rename_i hbe
        split at hx
        · simp only [Option.mem_def, Option.some.injEq] at hx; exact hx ▸ hbe
        · rename_i y
          split at hx
          · simp only [Option.mem_def, Option.some.injEq] at hx; exact hx ▸ hbe
          · exact hb x hx
      · exact hb x hx
    have hle : ∀ y, (y = b ∧ y.enabled = true ∧ y.firstLine ≤ line) ∨ y ∈ best →
        ∃ x ∈ betterBand line best b, y.firstLine ≤ x.firstLine := by
      intro y hy
      unfold betterBand
      split
      · rename_i hbe
        cases best with
        | none =>
          rcases hy with ⟨rfl, _⟩ | h
          · exact ⟨y, rfl, le_rfl⟩
          · simp at h
        | some z =>
          simp only [Option.mem_def, Option.some.injEq] at hy
          dsimp only
          split
          · rename_i hlt
            rcases hy with ⟨rfl, _⟩ | rfl
            · exact ⟨y, rfl, le_rfl⟩
            · exact ⟨b, rfl, hlt.le⟩
          · rename_i hlt
            rcases hy with ⟨rfl, _⟩ | rfl
            · exact ⟨z, rfl, not_lt.1 hlt⟩
            · exact ⟨z, rfl, le_rfl⟩
      · rename_i hbe
        rcases hy with ⟨rfl, he⟩ | h
        · exact absurd he hbe
        · exact ⟨y, h, le_rfl⟩
    obtain ⟨h1, h2⟩ := ih (betterBand line best b) hstep
    refine ⟨h1, ?_⟩
    intro y hy
    have : (y = b ∧ y.enabled = true ∧ y.firstLine ≤ line) ∨ y ∈ best ∨
        (y ∈ l ∧ y.enabled = true ∧ y.firstLine ≤ line) := by
      rcases hy with ⟨h, he⟩ | h
      · rcases List.mem_cons.1 h with rfl | h
        · exact .inl ⟨rfl, he⟩
        · exact .inr (.inr ⟨h, he⟩)
      · exact .inr (.inl h)
    rcases this with h | h | h
    · obtain ⟨x, hx, hxy⟩ := hle y (.inl h)
      obtain ⟨z, hz, hzx⟩ := h2 x (.inr hx)
      exact ⟨z, hz, hxy.trans hzx⟩
    · obtain ⟨x, hx, hxy⟩ := hle y (.inr h)
      obtain ⟨z, hz, hzx⟩ := h2 x (.inr hx)
      exact ⟨z, hz, hxy.trans hzx⟩
    · exact h2 y (.inl h)

end Sys2Proof.Machine
end

