-- ==== Sys2Proof/Laws/Engine.lean ====
section
/-! SUPPORT. The table engine: the checks, the grant, the delivery of a result, and the port
sequencer. -/

namespace Sys2Proof.Machine

/-! ## The checks (R149) -/

theorem check_pos {c : Prop} [Decidable c] {code : ResultCode} {k : Answer} (h : c) : check c code k = k := by
  simp [check, h]

theorem check_neg {c : Prop} [Decidable c] {code : ResultCode} {k : Answer} (h : ¬ c) :
    check c code k = .refusal code := by
  simp [check, h]

/-- A check lets through exactly what follows it, or refuses with its code. -/
theorem check_cases {c : Prop} [Decidable c] {code : ResultCode} {k : Answer} :
    (c ∧ check c code k = k) ∨ (¬ c ∧ check c code k = .refusal code) := by
  by_cases h : c
  · exact .inl ⟨h, check_pos h⟩
  · exact .inr ⟨h, check_neg h⟩

@[simp] theorem check_accepted {c : Prop} [Decidable c] {code : ResultCode} {k : Answer} {t : State}
    {fields : List Byte} : check c code k = .accepted t fields ↔ c ∧ k = .accepted t fields := by
  unfold check; split <;> simp [*]

@[simp] theorem check_fence {c : Prop} [Decidable c] {code : ResultCode} {k : Answer} {number : Nat} :
    check c code k = .fence number ↔ c ∧ k = .fence number := by
  unfold check; split <;> simp [*]

@[simp] theorem withSlot_accepted {b : Byte} {k : SlotNo → Answer} {t : State} {fields : List Byte} :
    withSlot b k = .accepted t fields ↔ ∃ n, slotOfByte b = some n ∧ k n = .accepted t fields := by
  unfold withSlot; split <;> simp [*]

@[simp] theorem withSlot_fence {b : Byte} {k : SlotNo → Answer} {number : Nat} :
    withSlot b k = .fence number ↔ ∃ n, slotOfByte b = some n ∧ k n = .fence number := by
  unfold withSlot; split <;> simp [*]

@[simp] theorem ifOwned_accepted {s t : State} {p : Port} {n : SlotNo} {k : Answer} {fields : List Byte} :
    ifOwned s p n k = .accepted t fields ↔
      (s.slot n).state = .opened ∧ (s.slot n).owner = some p ∧ k = .accepted t fields := by
  simp [ifOwned]

@[simp] theorem ifIndex_accepted {s t : State} {n : SlotNo} {i : Nat} {k : Answer} {fields : List Byte} :
    ifIndex s n i k = .accepted t fields ↔ i < (s.slot n).size.entries ∧ k = .accepted t fields := by
  simp [ifIndex]

@[simp] theorem ifRange_accepted {s t : State} {n : SlotNo} {i j : Nat} {k : Answer} {fields : List Byte} :
    ifRange s n i j k = .accepted t fields ↔ i + j ≤ (s.slot n).size.entries ∧ k = .accepted t fields := by
  simp [ifRange]

/-- Step 8: a staged batch is appended exactly when it fits (R77, R79). -/
@[simp] theorem staged_accepted {s t : State} {p : Port} {es : List Edit} {fs fields : List Byte} :
    staged s p es fs = .accepted t fields ↔ s.roomFor es.length ∧ s.appendBatch p es = t ∧ fs = fields := by
  simp [staged]

@[simp] theorem ifOwned_fence {s : State} {p : Port} {n : SlotNo} {k : Answer} {number : Nat} :
    ifOwned s p n k = .fence number ↔
      (s.slot n).state = .opened ∧ (s.slot n).owner = some p ∧ k = .fence number := by
  simp [ifOwned]

@[simp] theorem staged_ne_fence {s : State} {p : Port} {es : List Edit} {fs : List Byte} {number : Nat} :
    staged s p es fs ≠ .fence number := by
  unfold staged check; split <;> simp

theorem slotOfByte_slotByte (n : SlotNo) : slotOfByte (slotByte n) = some n := by
  revert n; decide

theorem slotOfByte_eq_none {b : Byte} : slotOfByte b = none ↔ 8 ≤ b.toNat := by
  unfold slotOfByte
  split
  · simp only [reduceCtorEq, false_iff]; omega
  · simp only [true_iff]; omega

/-! ## The grant (R129, R146) -/

/-- The engine grants a port exactly when its request is raised and it is its turn (R146). -/
theorem State.grantedPort_eq (s : State) (p : Port) :
    s.grantedPort = some p ↔
      (s.port p).request = true ∧ ((s.port p.other).request = false ∨ s.lastGranted = p.other) := by
  cases ha : s.portA.request <;> cases hb : s.portB.request <;> cases p <;> cases hl : s.lastGranted <;>
    simp [State.grantedPort, State.port, Port.other, ha, hb, hl]

theorem Granted.grantedPort {s : State} {p : Port} {cmd : List Byte} (h : Granted s p cmd) :
    s.grantedPort = some p :=
  (s.grantedPort_eq p).2 ⟨h.request, h.turn⟩

/-- A granted port whose collected bytes begin with the command's code has the command executed. -/
theorem Granted.grant {s : State} {p : Port} {cmd : List Byte} {c : Command} (h : Granted s p cmd)
    (hc : commandOfByte (byteAt cmd 1) = some c) (answer : Port → List Byte → State → Answer) :
    Sys2Proof.Machine.grant c answer p s = .next (s.deliver p (answer p cmd s)) := by
  simp [Sys2Proof.Machine.grant, h.grantedPort, h.collected, hc]

/-- A grant event that answers a next state was the engine's, for the collected command. -/
theorem grant_next {c : Command} {answer : Port → List Byte → State → Answer} {p : Port} {s t : State}
    (h : grant c answer p s = .next t) :
    s.grantedPort = some p ∧ commandOfByte (byteAt (s.port p).collected 1) = some c ∧
      t = s.deliver p (answer p (s.port p).collected s) := by
  unfold grant at h
  split at h
  · split at h
    · simp only [Host.Outcome.next.injEq] at h
      exact ⟨‹_›, ‹_›, h.symm⟩
    · cases h
  · cases h

/-! ## The delivery (R129, R143) -/

@[simp] theorem State.deliver_lastGranted (s : State) (p : Port) (a : Answer) : (s.deliver p a).lastGranted = p := by
  cases a <;> rfl

/-- The state whose tables a delivery shows: that of an acceptance, else the state before. -/
def Answer.tables (s : State) : Answer → State
  | .accepted t _ => t
  | .refusal _ => s
  | .fence _ => s

@[simp] theorem State.deliver_cells (s : State) (p : Port) (a : Answer) : (s.deliver p a).cells = (a.tables s).cells := by
  cases a <;> simp [State.deliver, Answer.tables]
@[simp] theorem State.deliver_freeList (s : State) (p : Port) (a : Answer) :
    (s.deliver p a).freeList = (a.tables s).freeList := by
  cases a <;> simp [State.deliver, Answer.tables]
@[simp] theorem State.deliver_sharedIndex (s : State) (p : Port) (a : Answer) :
    (s.deliver p a).sharedIndex = (a.tables s).sharedIndex := by
  cases a <;> simp [State.deliver, Answer.tables]
@[simp] theorem State.deliver_slots (s : State) (p : Port) (a : Answer) : (s.deliver p a).slots = (a.tables s).slots := by
  cases a <;> simp [State.deliver, Answer.tables]
@[simp] theorem State.deliver_config (s : State) (p : Port) (a : Answer) :
    (s.deliver p a).config = (a.tables s).config := by
  cases a <;> simp [State.deliver, Answer.tables]
@[simp] theorem State.deliver_queue (s : State) (p : Port) (a : Answer) : (s.deliver p a).queue = (a.tables s).queue := by
  cases a <;> simp [State.deliver, Answer.tables]
@[simp] theorem State.deliver_nextBatch (s : State) (p : Port) (a : Answer) :
    (s.deliver p a).nextBatch = (a.tables s).nextBatch := by
  cases a <;> simp [State.deliver, Answer.tables]
@[simp] theorem State.deliver_commit (s : State) (p : Port) (a : Answer) :
    (s.deliver p a).commit = (a.tables s).commit := by
  cases a <;> simp [State.deliver, Answer.tables]
@[simp] theorem State.deliver_display (s : State) (p : Port) (a : Answer) :
    (s.deliver p a).display = (a.tables s).display := by
  cases a <;> simp [State.deliver, Answer.tables]
@[simp] theorem State.deliver_scan (s : State) (p : Port) (a : Answer) : (s.deliver p a).scan = (a.tables s).scan := by
  cases a <;> simp [State.deliver, Answer.tables]
@[simp] theorem State.deliver_controlPort (s : State) (p : Port) (a : Answer) :
    (s.deliver p a).controlPort = (a.tables s).controlPort := by
  cases a <;> simp [State.deliver, Answer.tables]
@[simp] theorem State.deliver_pending (s : State) (p : Port) (a : Answer) :
    (s.deliver p a).pending = (a.tables s).pending := by
  cases a <;> simp [State.deliver, Answer.tables]

theorem State.port_deliver_other (s : State) (p : Port) (a : Answer) :
    (s.deliver p a).port p.other = (a.tables s).port p.other := by
  cases a <;> cases p <;> rfl

theorem State.port_deliver_refusal (s : State) (p : Port) (code : ResultCode) :
    (s.deliver p (.refusal code)).port p = (s.port p).reply [resultByte code] := by
  cases p <;> rfl

theorem State.port_deliver_accepted (s t : State) (p : Port) (fields : List Byte) :
    (s.deliver p (.accepted t fields)).port p = (t.port p).reply (resultByte .ok :: fields) := by
  cases p <;> rfl

theorem State.port_deliver_fence (s : State) (p : Port) (number : Nat) :
    (s.deliver p (.fence number)).port p = (s.port p).wait number := by
  cases p <;> rfl

/-- A refusal changes nothing but the port and the last-granted port (R151). -/
theorem State.deliver_refusal (s : State) (p : Port) (code : ResultCode) :
    RefusedWith s (s.deliver p (.refusal code)) p (resultByte code) := by
  cases p <;>
    exact ⟨⟨rfl, rfl⟩, ⟨rfl, rfl, rfl, rfl, rfl⟩, ⟨rfl, rfl, rfl⟩, rfl, ⟨rfl, rfl⟩, ⟨rfl, rfl⟩,
      ⟨fun q => by cases q <;> rfl, fun q => by cases q <;> rfl⟩⟩

/-- A granted command whose answer is a refusal is refused with that code. -/
theorem Granted.refused {s : State} {p : Port} {cmd : List Byte} {c : Command} (h : Granted s p cmd)
    (hc : commandOfByte (byteAt cmd 1) = some c) {answer : Port → List Byte → State → Answer} {code : ResultCode}
    (ha : answer p cmd s = .refusal code) :
    ∃ t, Sys2Proof.Machine.grant c answer p s = .next t ∧ RefusedWith s t p (resultByte code) :=
  ⟨_, h.grant hc answer, ha ▸ s.deliver_refusal p code⟩

/-! ## The port sequencer (spec/06) -/

@[simp] theorem PortState.reply_seq (x : PortState) (bytes : List Byte) : (x.reply bytes).seq = .reply := rfl
@[simp] theorem PortState.reply_result (x : PortState) (bytes : List Byte) :
    (x.reply bytes).result = some ⟨bytes, 0⟩ := rfl
@[simp] theorem PortState.reply_notices (x : PortState) (bytes : List Byte) :
    (x.reply bytes).notices = x.notices := rfl
@[simp] theorem PortState.reply_mask (x : PortState) (bytes : List Byte) : (x.reply bytes).mask = x.mask := rfl
@[simp] theorem PortState.wait_seq (x : PortState) (k : Nat) : (x.wait k).seq = .waiting := rfl
@[simp] theorem PortState.wait_fence (x : PortState) (k : Nat) : (x.wait k).fence = some k := rfl
@[simp] theorem PortState.wait_notices (x : PortState) (k : Nat) : (x.wait k).notices = x.notices := rfl

/-- A port that replies with 1 to 14 bytes holds what REPLY calls for (R121, R122). -/
theorem PortState.reply_ok {x : PortState} {bytes : List Byte} (hn : (x.notices.map noticeKind).Nodup)
    (h1 : 1 ≤ bytes.length) (h2 : bytes.length ≤ 14) : PortOk (x.reply bytes) where
  collected := rfl
  timer := rfl
  request := rfl
  fence := rfl
  result := rfl
  unread := by simpa [resultOk] using ⟨by omega, h2⟩
  notices := hn

/-- A port that waits holds what WAITING calls for (R121, R122). -/
theorem PortState.wait_ok {x : PortState} {k : Nat} (hn : (x.notices.map noticeKind).Nodup) : PortOk (x.wait k) where
  collected := rfl
  timer := rfl
  request := rfl
  fence := rfl
  result := rfl
  unread := rfl
  notices := hn

end Sys2Proof.Machine
end

