-- ==== Sys2Proof/Tests/Slice0.lean ====
section
/-! SUPPORT. Tests: ill-formed terms the check refuses, examples of spec/ worked on small states, and,
for each statement with hypotheses, states and operands that meet them (the theorems `witness_`). -/

namespace Sys2Proof.Tests

set_option Elab.async false

open Sys2Proof Sys2Proof.Machine

/-! ## Well-formedness -/

theorem test_portReset_without_bit0_is_ill_formed : Instr.wellFormed (.portReset .a 0x06) = false := by decide
theorem test_interruptEnables_with_bit0_is_ill_formed : Instr.wellFormed (.interruptEnables .b 0x07) = false := by
  decide
theorem test_control_writes_are_well_formed :
    Instr.wellFormed (.portReset .a 0x01) = true ∧ Instr.wellFormed (.portReset .b 0xFF) = true ∧
      Instr.wellFormed (.interruptEnables .a 0x00) = true ∧ Instr.wellFormed (.interruptEnables .b 0xFE) = true := by
  decide

/-! ## Words and bytes -/

theorem test_no_word_spells_a_command : decodeTableWord 8 0x20 = none := rfl
theorem test_withFetchWord_leaves_the_state : State.reset.withFetchWord 8 0x20 = State.reset := rfl
theorem test_code_names_its_command (c : Command) : commandOfByte (codeOf c) = some c := by cases c <;> rfl
theorem test_no_other_byte_names_a_command :
    ((List.range 256).filter fun k => (commandOfByte (BitVec.ofNat 8 k)).isSome).length = 23 := by decide

theorem test_lengthTable_lists_each_command_once (c : Command) :
    lengthTable.filter (fun x => x.1 = codeOf c) = [(codeOf c, commandLength c)] := by
  cases c <;> decide

/-! ## Small states -/

/-- Port `p` is PENDING with the command `cmd`. -/
def asks (p : Port) (cmd : List Byte) (s : State) : State :=
  s.setPort p { PortState.reset with
    seq := .pending, collected := cmd, expected := some cmd.length, request := true }

theorem granted_asks {p : Port} {cmd : List Byte} {s : State} (h : (s.port p.other).request = false) :
    Granted (asks p cmd s) p cmd := by
  cases p <;> exact ⟨rfl, .inl h, rfl⟩

theorem tablesOk_asks {p : Port} {cmd : List Byte} {s : State} (h : TablesOk s) : TablesOk (asks p cmd s) := by
  cases p <;>
    exact ⟨⟨h.cells.cells, h.cells.freeNodup, h.cells.pairs, h.cells.sorted, h.cells.values⟩, fun n =>
      ⟨(h.slots n).state, (h.slots n).privCount, (h.slots n).sharedCount, (h.slots n).quota⟩⟩

theorem tablesOk_with {s : State} {x y : PortState} {q : List Instr} (h : TablesOk s) :
    TablesOk { s with portA := x, portB := y, pending := q } :=
  ⟨⟨h.cells.cells, h.cells.freeNodup, h.cells.pairs, h.cells.sorted, h.cells.values⟩, fun n =>
    ⟨(h.slots n).state, (h.slots n).privCount, (h.slots n).sharedCount, (h.slots n).quota⟩⟩

theorem tablesOk_queued {s : State} {q : List Batch} (h : TablesOk s) : TablesOk { s with queue := q } :=
  ⟨⟨h.cells.cells, h.cells.freeNodup, h.cells.pairs, h.cells.sorted, h.cells.values⟩, fun n =>
    ⟨(h.slots n).state, (h.slots n).privCount, (h.slots n).sharedCount, (h.slots n).quota⟩⟩

/-- Two colours of the sample. -/
def red : Colour := ⟨200, 10, 20⟩
def grey : Colour := ⟨90, 90, 90⟩

/-- The working entries of slot 0 of the sample: a private cell of its own colour, a shared cell bound
twice, a private cell of the shared colour. -/
def sampleEntries : List (Option CellNo) := [some 0, some 1, some 1, some 2] ++ List.replicate 12 none

/-- Slot 0 of the sample, OPEN, owned by Port A. -/
def sampleSlot : Slot := ⟨.opened, some .a, .s16, 4, 2, 2, grey, sampleEntries⟩

/-- The sample: slot 0 is Port A's, slot 1 Port B's and empty, slot 2 DRAINING with its MAP_CLOSE queued,
the rest CLOSED. The frame is in its active video, band 0 shows slot 0. -/
def sample : State := { State.reset with
  cells := ((State.reset.cells.set 0 (.priv red 0 0)).set 1 (.shared grey 2)).set 2 (.priv grey 0 3)
  freeList := (List.finRange 512).drop 3
  sharedIndex := [(grey, 1)]
  slots := ((State.reset.slots.set 0 sampleSlot).set 1
    ⟨.opened, some .b, .s16, 512, 0, 0, .black, List.replicate 16 none⟩).set 2
    ⟨.draining, some .b, .s16, 512, 0, 0, .black, List.replicate 16 none⟩
  config := ⟨40, 509, .black⟩
  queue := [⟨5, .b, [.mapClose 2]⟩]
  nextBatch := 6
  commit := { CommitUnit.reset with appliedMark := 4, rasterIdle := false }
  display := { Display.reset with
    cells := ((Display.reset.cells.set 0 red).set 1 grey).set 2 grey
    slots := ((Display.reset.slots.set 0 ⟨true, .s16, grey, sampleEntries⟩).set 1
      ⟨true, .s16, .black, List.replicate 16 none⟩).set 2 ⟨true, .s16, .black, List.replicate 16 none⟩
    bands := Display.reset.bands.set 0 ⟨true, 0, 0, 0⟩ }
  scan := { Scan.reset with line := 7, selection := some ⟨0, 0⟩, blanked := false } }

/-- The sample with a commit under way. -/
def applying : State := { sample with commit := { sample.commit with state := .applying } }

/-- The working entries of a map of 256, all but the last bound to cell 0. -/
def crowdedEntries : List (Option CellNo) := List.replicate 255 (some 0) ++ [none]

/-- Slot 0 has 255 entries bound to one SHARED cell and one UNBOUND, and slot 1 a private cell of the same
colour. -/
def crowded : State := { State.reset with
  cells := (State.reset.cells.set 0 (.shared grey 255)).set 1 (.priv grey 1 0)
  freeList := (List.finRange 512).drop 2
  sharedIndex := [(grey, 0)]
  slots := (State.reset.slots.set 0
    ⟨.opened, some .a, .s256, 512, 0, 255, .black, crowdedEntries⟩).set 1
    ⟨.opened, some .a, .s16, 512, 1, 0, .black, some 1 :: List.replicate 15 none⟩ }

/-- The entries of a map of 256 bound to 256 cells from a first cell on. -/
def run256 (first : Nat) (h : first ≤ 256) : List (Option CellNo) :=
  (List.finRange 256).map fun i => some ⟨first + i.val, by omega⟩

/-- Every cell is PRIVATE in slots 0 and 1, and slot 2 is empty. -/
def exhausted : State := { State.reset with
  cells := Vector.ofFn fun c : CellNo => .priv red (if c.val < 256 then 0 else 1) (c.val % 256)
  freeList := []
  slots := ((State.reset.slots.set 0
    ⟨.opened, some .a, .s256, 512, 256, 0, .black, run256 0 (by omega)⟩).set 1
    ⟨.opened, some .b, .s256, 512, 256, 0, .black, run256 256 (by omega)⟩).set 2
    ⟨.opened, some .a, .s16, 512, 0, 0, .black, List.replicate 16 none⟩ }

/-- Cells from `k` on are FREE, in the free list and in no entry; it is left to check the cells below. -/
theorem cells_of_low {s : State} (k : Nat) (hf : ∀ c : CellNo, k ≤ c.val → s.cell c = .free)
    (hl : s.freeList = (List.finRange 512).drop k)
    (he : ∀ n, (s.slot n).entries.all (fun e => e.all fun c => decide (c.val < k)) = true)
    (h : ∀ c : CellNo, c.val < k → cellOk s c = true) : ∀ c, cellOk s c = true := by
  intro c
  by_cases hc : c.val < k
  · exact h c hc
  · have hz : boundCount s c = 0 := by
      refine List.sum_eq_zero fun x hx => ?_
      obtain ⟨n, -, rfl⟩ := List.mem_map.1 hx
      refine List.count_eq_zero.2 fun hm => hc ?_
      simpa using List.all_eq_true.1 (he n) _ hm
    have hm : c ∈ s.freeList := by
      rw [hl]
      exact List.mem_iff_getElem.2 ⟨c.val - k, by simp; omega, by ext; simp; omega⟩
    simp [cellOk, hf c (by omega), hm, hz]

theorem nodup_drop (k : Nat) : ((List.finRange 512).drop k).Nodup :=
  (List.nodup_finRange 512).sublist (List.drop_sublist k _)

theorem sample_tables : TablesOk sample where
  cells :=
    { cells := cells_of_low 3
        (fun c h => by
          have h0 : c.val ≠ 0 := by omega
          have h1 : c.val ≠ 1 := by omega
          have h2 : c.val ≠ 2 := by omega
          simp [State.cell, sample, State.reset, State.resetWith, h0.symm, h1.symm, h2.symm])
        (by simp only [sample]) (by decide +kernel)
        (fun c h => by
          have : c = 0 ∨ c = 1 ∨ c = 2 := by
            simp only [Fin.ext_iff, Fin.isValue, Fin.val_zero, Fin.val_one, Fin.val_two]; omega
          rcases this with rfl | rfl | rfl <;> decide +kernel)
      freeNodup := by simp only [sample]; exact nodup_drop 3
      pairs := by decide +kernel
      sorted := by decide +kernel
      values := by decide +kernel }
  slots n := ⟨by revert n; decide +kernel, by revert n; decide +kernel, by revert n; decide +kernel,
    by revert n; decide +kernel⟩

theorem crowded_tables : TablesOk crowded where
  cells :=
    { cells := cells_of_low 2
        (fun c h => by
          have h0 : c.val ≠ 0 := by omega
          have h1 : c.val ≠ 1 := by omega
          simp [State.cell, crowded, State.reset, State.resetWith, h0.symm, h1.symm])
        (by simp only [crowded]) (by decide +kernel)
        (fun c h => by
          have : c = 0 ∨ c = 1 := by
            simp only [Fin.ext_iff, Fin.isValue, Fin.val_zero, Fin.val_one]; omega
          rcases this with rfl | rfl <;> decide +kernel)
      freeNodup := by simp only [crowded]; exact nodup_drop 2
      pairs := by decide +kernel
      sorted := by decide +kernel
      values := by decide +kernel }
  slots n := ⟨by revert n; decide +kernel, by revert n; decide +kernel, by revert n; decide +kernel,
    by revert n; decide +kernel⟩

/-- Entry i of a run names the cell i places after the first. -/
theorem run256_get {first : Nat} {h : first ≤ 256} {i : Nat} (hi : i < 256) :
    (run256 first h).getD i none = some ⟨first + i, by omega⟩ := by
  simp [run256, List.getD_eq_getElem?_getD, hi]

theorem run256_count {first : Nat} {h : first ≤ 256} (c : CellNo) :
    (run256 first h).count (some c) = if first ≤ c.val ∧ c.val < first + 256 then 1 else 0 := by
  have hn : (run256 first h).Nodup := by
    refine List.Nodup.map (fun a b e => ?_) (List.nodup_finRange 256)
    simp only [Option.some.injEq, Fin.mk.injEq] at e
    omega
  split
  · rename_i hc
    refine List.count_eq_one_of_mem hn (List.mem_map.2 ⟨⟨c.val - first, by omega⟩, List.mem_finRange _, ?_⟩)
    simp only [Option.some.injEq]
    ext
    simp
    omega
  · rename_i hc
    refine List.count_eq_zero.2 fun hm => hc ?_
    obtain ⟨i, -, e⟩ := List.mem_map.1 hm
    simp only [Option.some.injEq] at e
    subst e
    simp

theorem exhausted_cells (c : CellNo) : cellOk exhausted c = true := by
  have hs : ∀ n : SlotNo, (exhausted.slot n).entries =
      if n = 0 then run256 0 (by omega) else if n = 1 then run256 256 (by omega) else
        if n = 2 then List.replicate 16 none else [] := by
    intro n
    fin_cases n <;> rfl
  have hb : boundCount exhausted c = 1 := by
    have : List.finRange 8 = [0, 1, 2, 3, 4, 5, 6, 7] := by decide
    simp only [boundCount, hs, this, List.map_cons, List.map_nil, List.sum_cons, List.sum_nil]
    simp [run256_count]
    split <;> split <;> omega
  have hc : exhausted.cell c = .priv red (if c.val < 256 then 0 else 1) (c.val % 256) := by
    simp [State.cell, exhausted]
  have he : exhausted.entry (if c.val < 256 then 0 else 1) (c.val % 256) = some c := by
    simp only [State.entry, hs]
    split
    · rw [if_pos rfl, run256_get (by omega), Option.some.injEq, Fin.ext_iff]
      simp only [zero_add]
      omega
    · rw [if_neg (by decide), if_pos rfl, run256_get (by omega), Option.some.injEq, Fin.ext_iff]
      simp only
      omega
  have hf : exhausted.freeList = [] := rfl
  simp [cellOk, hc, he, hb, hf]

theorem exhausted_isPriv (c : CellNo) : isPriv exhausted c = true := by
  simp [isPriv, State.cell, exhausted]

theorem run256_countP {first : Nat} {h : first ≤ 256} :
    (run256 first h).countP (fun e => e.any (isPriv exhausted)) = 256 ∧
      (run256 first h).countP (fun e => e.any (isShared exhausted)) = 0 := by
  have hsh : ∀ c, isShared exhausted c = false := fun c => by simp [isShared, State.cell, exhausted]
  constructor
  · rw [List.countP_eq_length.2]
    · simp [run256]
    · intro e he
      obtain ⟨i, -, rfl⟩ := List.mem_map.1 he
      simp [exhausted_isPriv]
  · refine List.countP_eq_zero.2 fun e he => ?_
    obtain ⟨i, -, rfl⟩ := List.mem_map.1 he
    simp [hsh]

theorem exhausted_tables : TablesOk exhausted where
  cells :=
    { cells := exhausted_cells
      freeNodup := List.nodup_nil
      pairs := fun x h => absurd h List.not_mem_nil
      sorted := List.Pairwise.nil
      values := List.nodup_nil }
  slots n := by
    fin_cases n
    · exact ⟨by decide +kernel, (run256_countP (h := by omega)).1.symm,
        (run256_countP (h := by omega)).2.symm, by decide +kernel⟩
    · exact ⟨by decide +kernel, (run256_countP (h := by omega)).1.symm,
        (run256_countP (h := by omega)).2.symm, by decide +kernel⟩
    all_goals exact ⟨by decide +kernel, by decide +kernel, by decide +kernel, by decide +kernel⟩

/-! ## Invariants (StepKeepsPortsOk to StepKeepsDisplayFollows, CellCounts) -/

/-- The sample with Port A in WAITING for no batch's sake, Port B waiting for its batch in the queue, and a
BLANK_START to come. -/
def waitingSample : State := { sample with
  portB := { PortState.reset with seq := .waiting, fence := some 5, notices := [.cellsLow 508] }
  portA := { PortState.reset with seq := .reply, result := some ⟨[0x00, 0x01], 1⟩ }
  pending := [.blankStart] }

theorem waitingSample_ports : PortsOk waitingSample :=
  ⟨⟨by decide, by decide, by decide, by decide, by decide, by decide, by decide⟩,
    ⟨by decide, by decide, by decide, by decide, by decide, by decide, by decide⟩⟩

theorem waitingSample_queue : QueueOk waitingSample where
  batches := by decide
  edits := by decide
  sizes := by decide
  numbers := ⟨rfl, rfl⟩
  mark := by decide
  applying := by decide
  fences p k h := by
    cases p
    · cases h
    · cases h
      exact ⟨_, List.mem_cons_self, rfl, rfl⟩

theorem waitingSample_config : ConfigOk waitingSample := ⟨by decide, by decide, rfl, by decide⟩

theorem waitingSample_tables : TablesOk waitingSample := tablesOk_with sample_tables

theorem waitingSample_draining : DrainingOk waitingSample := by
  intro n
  revert n
  decide +kernel

/-- The third clause of `Agrees`, entry list by entry list. -/
def cellsAgree (s : State) (d : Display) : Bool :=
  (List.finRange 8).all fun n => (s.slot n).entries.all fun e => e.all fun c => d.cells[c] = s.workingValue c

theorem cellsAgree_sound {s : State} {d : Display} (h : cellsAgree s d = true) {n : SlotNo} {i : Nat} {c : CellNo}
    (he : s.entry n i = some c) : d.cells[c] = s.workingValue c := by
  have hm : some c ∈ (s.slot n).entries := by
    have hl := s.entry_lt he
    rw [State.entry, List.getD_eq_getElem?_getD, List.getElem?_eq_getElem hl, Option.getD_some] at he
    exact he ▸ List.getElem_mem hl
  simpa using List.all_eq_true.1 (List.all_eq_true.1 h n (List.mem_finRange n)) _ hm

theorem waitingSample_display : DisplayFollows waitingSample where
  slots n := by
    fin_cases n
    · change (waitingSample.display.applyEdits (queuedEdits waitingSample)).slots[0] =
        ⟨true, .s16, grey, sampleEntries⟩
      decide +kernel
    · change (waitingSample.display.applyEdits (queuedEdits waitingSample)).slots[1] =
        ⟨true, .s16, .black, List.replicate 16 none⟩
      decide +kernel
    all_goals exact ⟨by decide +kernel, by decide +kernel⟩
  blank := by decide +kernel
  cells _ _ _ h := cellsAgree_sound (by decide +kernel) h

theorem witness_StepKeepsInvariants :
    PortsOk waitingSample ∧ QueueOk waitingSample ∧ ConfigOk waitingSample ∧ TablesOk waitingSample ∧
      DrainingOk waitingSample ∧ DisplayFollows waitingSample ∧ ∃ t, step waitingSample = .next t :=
  ⟨waitingSample_ports, waitingSample_queue, waitingSample_config, waitingSample_tables, waitingSample_draining,
    waitingSample_display, _, rfl⟩

/-- Port `p` asks for a SET_BAND of band 3 with every field at its upper end. -/
def bandCommand : List Byte := [0x32, BitVec.ofNat 8 (3 : BandNo).val, 1, 7, 0xFF, slotByte 7, 0xFF]
def asksBand (p : Port) : State := { asks p bandCommand sample with pending := [.setBand p] }

theorem asksBand_granted (p : Port) : Granted { asksBand p with pending := [] } p bandCommand := by
  cases p <;> exact ⟨rfl, .inl rfl, rfl⟩

/-- A SET_BAND from the control port, one refused to the other port, a part reset, and another row. -/
theorem witness_StepKeepsDisplayFollows_bands :
    ((asksBand .a).pending.head? = some (.setBand .a) ∧ ((asksBand .a).port .a).collected = bandCommand ∧
      (asksBand .a).controlPort = .a ∧ (7#8).toNat * 256 + (0xFF#8).toNat ≤ 2047 ∧ hasRoom (asksBand .a) 1 ∧
      ∃ t, step (asksBand .a) = .next t) ∧
    ((asksBand .b).pending.head? = some (.setBand .b) ∧
      ∃ t, step (asksBand .b) = .next t ∧ t.queue = (asksBand .b).queue) ∧
    (∃ t, step { sample with pending := [.partReset .high] } = .next t) ∧
    (∃ t, step waitingSample = .next t) ∧ waitingSample.pending.head? = some .blankStart := by
  refine ⟨⟨rfl, rfl, rfl, by decide, by decide +kernel,
      _, (asksBand_granted .a).grant (c := .setBand) rfl answerSetBand⟩,
    ⟨rfl, ?_⟩, ⟨_, rfl⟩, ⟨_, rfl⟩, rfl⟩
  obtain ⟨t, ht, hr⟩ := (asksBand_granted .b).refused (c := .setBand) (code := .notPermitted) rfl
    (answer := answerSetBand) (by decide +kernel)
  exact ⟨t, ht, hr.queue.queue⟩

/-! ## Witnesses: the step and the ports -/

theorem witness_StepExecutesFrontCommand :
    { sample with pending := [.frameStart, .lineStart] }.pending = .frameStart :: [.lineStart] ∧ sample.pending = [] :=
  ⟨rfl, rfl⟩

theorem witness_DataWriteInIdleBeginsCommand :
    (sample.port .a).seq = .idle ∧ (∀ n, (0x00, n) ∉ lengthTable) ∧ (∀ n, (0xFF, n) ∉ lengthTable) ∧
      ((0x20, some 1) ∈ lengthTable ∧ (0x23, some 1) ∈ lengthTable) ∧
      (0x01, some 2) ∈ lengthTable ∧ (0x14, none) ∈ lengthTable ∧ (0x34, some 4) ∈ lengthTable :=
  ⟨rfl, fun _ => by simp [lengthTable], fun _ => by simp [lengthTable], by decide⟩

/-- Port A collects: `cmd` so far, of the length `n`. -/
def collecting (cmd : List Byte) (n : Option Nat) : State :=
  sample.setPort .a { PortState.reset with seq := .collecting, collected := cmd, expected := n, interByteTimer := true }

theorem witness_DataWriteInCollectingCollects :
    (∀ cmd n, ((collecting cmd n).port .a).seq = .collecting ∧ ((collecting cmd n).port .a).collected = cmd ∧
      ((collecting cmd n).port .a).expected = n) ∧
    ([0x13#8].length + 1 ≠ 6 ∧ [0x13#8, 0, 0, 1, 2].length + 1 = 6 ∧ [0x14#8].length + 1 ≠ 4 ∧
      [0x14#8, 0, 0].length + 1 = 4) ∧
    (1 ≤ (1 : Byte).toNat ∧ (1 : Byte).toNat ≤ 16) ∧ (1 ≤ (16 : Byte).toNat ∧ (16 : Byte).toNat ≤ 16) ∧
    ((0 : Byte).toNat = 0 ∧ 17 ≤ (17 : Byte).toNat ∧ 17 ≤ (255 : Byte).toNat) :=
  ⟨fun _ _ => ⟨rfl, rfl, rfl⟩, by decide⟩

theorem witness_DataWriteOutOfPhaseIsDiscarded :
    ((asks .a [0x20] sample).port .a).seq = .pending ∧ (waitingSample.port .b).seq = .waiting ∧
      (waitingSample.port .a).seq = .reply := ⟨rfl, rfl, rfl⟩

/-- Port A holds the result OK, slot 2, of which `k` bytes are read. -/
def replying (k : Nat) : State :=
  sample.setPort .a { PortState.reset with seq := .reply, result := some ⟨[0x00, 0x02], k⟩ }

theorem witness_DataReadInReplyDeliversByte :
    (∀ k, ((replying k).port .a).seq = .reply ∧ ((replying k).port .a).result = some ⟨[0x00, 0x02], k⟩) ∧
      ([0x00#8, 0x02][0]? = some 0x00 ∧ 0 + 1 < [0x00#8, 0x02].length) ∧
      [0x00#8, 0x02][1]? = some 0x02 ∧ 1 + 1 = [0x00#8, 0x02].length :=
  ⟨fun _ => ⟨rfl, rfl⟩, by decide, by decide, by decide⟩

theorem witness_ReadOutOfPhaseAndStrobeConflictSetSeqErr : (sample.port .a).seq ≠ .reply := by decide

theorem witness_InterByteTimerExpiryAnswersTimeout :
    ((collecting [0x13] (some 6)).port .a).seq = .collecting ∧
      ((collecting [0x13] (some 6)).port .a).interByteTimer = true := ⟨rfl, rfl⟩

theorem witness_ControlWriteSetsEnablesAndResets :
    (0x00#8).getLsbD 0 = false ∧ (0xFE#8).getLsbD 0 = false ∧ (0x01#8).getLsbD 0 = true ∧ (0xFF#8).getLsbD 0 = true := by
  decide

theorem witness_HeldResultIsNotDisturbed :
    PortsOk waitingSample ∧ (waitingSample.port .a).seq = .reply ∧
      (∃ t, exec (.dataWrite .a 0x55) waitingSample = .next t) ∧ ∃ t, exec .frameStart waitingSample = .next t :=
  ⟨waitingSample_ports, rfl, ⟨_, rfl⟩, _, rfl⟩

/-! ## Witnesses: raster, scan-out and commit -/

theorem witness_LineStartOpensLine :
    sample.scan.line ≤ 2047 ∧ { sample with scan := { sample.scan with line := 2047 } }.scan.line ≤ 2047 := by decide

theorem witness_BlankStartOpensBlanking :
    (State.reset.commit.state = .idle ∧ State.reset.queue = []) ∧ (sample.commit.state = .idle ∧ sample.queue ≠ []) ∧
      applying.commit.state = .applying := by
  decide

theorem witness_BandSelectionChoosesLatestBand :
    selectLine sample.display.bands 0 = some ⟨0, 0⟩ ∧ selectLine State.reset.display.bands 0 = none ∧
      Scan.reset.selection = none := by
  decide

/-- The sample with the line shown from slot `n`. -/
def shownFrom (n : SlotNo) (base : Byte) : State := { sample with scan := { sample.scan with selection := some ⟨n, base⟩ } }

theorem witness_PixelEventProducesColour :
    State.reset.scan.blanked = true ∧
      ({ sample with scan := { sample.scan with selection := none } }.scan.selection = none) ∧
      (∀ n base, (shownFrom n base).scan.blanked = false ∧ (shownFrom n base).scan.selection = some ⟨n, base⟩) ∧
      (shownFrom 3 0).display.slots[3].shown = false ∧ (shownFrom 0 250).display.slots[0].shown = true ∧
      (shownFrom 0 250).display.slots[0].size.entries ≤ ((0#8).toNat + (250#8).toNat) % 256 ∧
      ((15#8).toNat + (0#8).toNat) % 256 < (shownFrom 0 0).display.slots[0].size.entries ∧
      (shownFrom 0 0).display.slots[0].entries.getD 15 none = none ∧
      ((9#8).toNat + (250#8).toNat) % 256 = 3 ∧ (shownFrom 0 250).display.slots[0].entries.getD 3 none = some 2 := by
  refine ⟨rfl, rfl, fun _ _ => ⟨rfl, rfl⟩, ?_⟩
  decide +kernel

theorem witness_CommitTimerExpiryRestartsAndBegins :
    (sample.commit.timer = .running 40 ∧ sample.commit.state = .idle ∧ sample.queue ≠ []) ∧
      (applying.commit.timer = .running 40 ∧ applying.commit.state = .applying) ∧
      State.reset.commit.timer = .running 40 ∧ State.reset.queue = [] := by
  decide

theorem witness_BatchAppliedAppliesHeadBatch :
    applying.commit.state = .applying ∧ applying.queue = ⟨5, .b, [.mapClose 2]⟩ :: [] ∧
      Edit.mapClose 2 ∈ [Edit.mapClose 2] ∧ (applying.slot 2).state = .draining := by
  refine ⟨rfl, rfl, by decide, by decide +kernel⟩

theorem witness_CommitWaitFencesNewestBatch :
    (Granted (asks .b [0x20] sample) .b [0x20] ∧
      (asks .b [0x20] sample).queue = [] ++ ⟨5, .b, [.mapClose 2]⟩ :: [] ∧ ∀ x ∈ ([] : List Batch), x.port ≠ .b) ∧
      Granted (asks .a [0x20] sample) .a [0x20] ∧ ∀ x ∈ (asks .a [0x20] sample).queue, x.port ≠ .a :=
  ⟨⟨granted_asks rfl, rfl, by decide⟩, granted_asks rfl, by decide⟩

/-! ## Witnesses: notices -/

theorem witness_RaiseIsTakenBySet :
    (∀ y ∈ [Notice.rasterIdle], noticeKind y ≠ noticeKind (.cellsLow 7)) ∧
      NoticeMask.enables ⟨false, false, true, false⟩ (noticeKind (.cellsLow 7)) = true ∧
      NoticeMask.enables ⟨true, true, false, true⟩ (noticeKind (.cellsLow 7)) = false ∧
      noticeKind (.cellsLow 9) = noticeKind (.cellsLow 7) ∧
      ∀ z ∈ [Notice.rasterIdle] ++ [.commitDone 4], noticeKind z ≠ noticeKind (.cellsLow 7) := by
  decide

/-- Port A asks for a notice of a set of four. -/
def asksNotice (notices : List Notice) : State :=
  { asks .a [0x21] sample with portA := { (asks .a [0x21] sample).portA with notices := notices } }

theorem witness_GetNoticeReturnsOldest :
    ∀ notices, Granted (asksNotice notices) .a [0x21] ∧ ((asksNotice notices).port .a).notices = notices :=
  fun _ => ⟨⟨rfl, .inl rfl, rfl⟩, rfl⟩

theorem witness_SetNoticesReplacesMask : Granted (asks .a [0x22, 0xFF] sample) .a [0x22, 0xFF] := granted_asks rfl

/-! ## Witnesses: maps -/

theorem witness_OpenMapTakesLowestClosedSlot :
    Granted (asks .a [0x01, 2] sample) .a [0x01, 2] ∧ ((asks .a [0x01, 2] sample).slot 3).state = .closed ∧
      (∀ m, m < 3 → ((asks .a [0x01, 2] sample).slot m).state ≠ .closed) ∧ hasRoom (asks .a [0x01, 2] sample) 1 :=
  ⟨granted_asks rfl, by decide +kernel, by decide +kernel, by decide +kernel⟩

/-- The sample with a full staging queue. -/
def stuffed : State := { sample with queue := List.replicate 16 ⟨5, .b, [.blank .black]⟩ }

/-- The sample with every slot OPEN. -/
def allOpen : State := { sample with slots := Vector.replicate 8 sampleSlot }

theorem witness_OpenMapRefusalsInOrder :
    (Granted (asks .a [0x01, 3] sample) .a [0x01, 3] ∧ 3 ≤ (3#8).toNat) ∧
      (Granted (asks .a [0x01, 2] allOpen) .a [0x01, 2] ∧
        ∀ n, ((asks .a [0x01, 2] allOpen).slot n).state ≠ .closed) ∧
      Granted (asks .a [0x01, 0] stuffed) .a [0x01, 0] ∧ ((asks .a [0x01, 0] stuffed).slot 3).state = .closed ∧
        ¬ hasRoom (asks .a [0x01, 0] stuffed) 1 :=
  ⟨⟨granted_asks rfl, by decide⟩, ⟨granted_asks rfl, by decide +kernel⟩, granted_asks rfl, by decide +kernel,
    by decide +kernel⟩

theorem witness_CloseMapReleasesEveryEntry :
    TablesOk (asks .a [0x02, slotByte 0] sample) ∧ Granted (asks .a [0x02, slotByte 0] sample) .a [0x02, slotByte 0] ∧
      ownsOpen (asks .a [0x02, slotByte 0] sample) .a 0 ∧ hasRoom (asks .a [0x02, slotByte 0] sample) 1 :=
  ⟨tablesOk_asks sample_tables, granted_asks rfl, by decide +kernel, by decide +kernel⟩

theorem witness_ForceCloseRevokesMap :
    TablesOk (asks .a [0x30, slotByte 1] sample) ∧ Granted (asks .a [0x30, slotByte 1] sample) .a [0x30, slotByte 1] ∧
      (asks .a [0x30, slotByte 1] sample).controlPort = .a ∧
      ((asks .a [0x30, slotByte 1] sample).slot 1).state = .opened ∧
      ((asks .a [0x30, slotByte 1] sample).slot 1).owner = some .b ∧ hasRoom (asks .a [0x30, slotByte 1] sample) 1 :=
  ⟨tablesOk_asks sample_tables, granted_asks rfl, rfl, by decide +kernel, by decide +kernel, by decide +kernel⟩

theorem witness_SetFallbackSetsWorkingFallback :
    Granted (asks .a ([0x03, slotByte 0] ++ colourOf red) sample) .a ([0x03, slotByte 0] ++ colourOf red) ∧
      ownsOpen (asks .a ([0x03, slotByte 0] ++ colourOf red) sample) .a 0 ∧
      hasRoom (asks .a ([0x03, slotByte 0] ++ colourOf red) sample) 1 :=
  ⟨granted_asks rfl, by decide +kernel, by decide +kernel⟩

theorem witness_MapInfoReportsWorkingPart :
    ∀ n, Granted (asks .a [0x04, slotByte n] sample) .a [0x04, slotByte n] := fun _ => granted_asks rfl

/-- The quota is 4 and the private count 2; 512 is 2 times 256. -/
theorem witness_SetQuotaSetsQuota :
    (∀ hi lo, Granted (asks .a [0x31, slotByte 0, hi, lo] sample) .a [0x31, slotByte 0, hi, lo] ∧
      (asks .a [0x31, slotByte 0, hi, lo] sample).controlPort = .a ∧
      ((asks .a [0x31, slotByte 0, hi, lo] sample).slot 0).privCount = 2) ∧
      512 = (2#8).toNat * 256 + (0#8).toNat ∧ 513 = (2#8).toNat * 256 + (1#8).toNat ∧
      2 = (0#8).toNat * 256 + (2#8).toNat ∧ 1 = (0#8).toNat * 256 + (1#8).toNat :=
  ⟨fun _ _ => ⟨granted_asks rfl, rfl, rfl⟩, by decide⟩

/-! ## Witnesses: bindings -/

theorem witness_AllocSharedReusesSharedCell :
    let s := asks .a ([0x10, slotByte 0, 15] ++ colourOf grey) sample
    TablesOk s ∧ Granted s .a ([0x10, slotByte 0, 15] ++ colourOf grey) ∧ ownsOpen s .a 0 ∧
      (15#8).toNat < (s.slot 0).size.entries ∧ s.entry 0 15 = none ∧ s.cell 1 = .shared grey 2 ∧ hasRoom s 1 :=
  ⟨tablesOk_asks sample_tables, granted_asks rfl, by decide +kernel⟩

theorem sample_has_no_shared_red : ∀ d h, sample.cell d ≠ .shared red h := by
  have : ∀ d, (match sample.cell d with
      | .shared v _ => decide (v = red)
      | _ => false) = false := by
    decide +kernel
  intro d h e
  have := this d
  rw [e] at this
  simp at this

theorem cell_asks (p : Port) (cmd : List Byte) (s : State) (c : CellNo) : (asks p cmd s).cell c = s.cell c := by
  cases p <;> rfl

theorem asks_has_no_shared_red {p : Port} {cmd : List Byte} : ∀ d h, (asks p cmd sample).cell d ≠ .shared red h := by
  intro d h
  rw [cell_asks]
  exact sample_has_no_shared_red d h

theorem witness_AllocSharedMakesSharedCell :
    let s := asks .a ([0x10, slotByte 0, 4] ++ colourOf red) sample
    TablesOk s ∧ Granted s .a ([0x10, slotByte 0, 4] ++ colourOf red) ∧ ownsOpen s .a 0 ∧
      (4#8).toNat < (s.slot 0).size.entries ∧ s.entry 0 4 = none ∧ (∀ d h, s.cell d ≠ .shared red h) ∧
      s.freeList = 3 :: s.freeList.tail ∧ hasRoom s 2 :=
  ⟨tablesOk_asks sample_tables, granted_asks rfl, by decide +kernel, by decide +kernel, by decide +kernel,
    asks_has_no_shared_red, by decide +kernel, by decide +kernel⟩

theorem witness_AllocPrivateMakesPrivateCell_accepted :
    let s := asks .a ([0x11, slotByte 0, 15] ++ colourOf red) sample
    Granted s .a ([0x11, slotByte 0, 15] ++ colourOf red) ∧ ownsOpen s .a 0 ∧
      (15#8).toNat < (s.slot 0).size.entries ∧ s.entry 0 15 = none ∧ (s.slot 0).privCount < (s.slot 0).quota ∧
      s.freeList = 3 :: s.freeList.tail ∧ hasRoom s 2 :=
  ⟨granted_asks rfl, by decide +kernel⟩

theorem witness_AllocPrivateMakesPrivateCell_quota :
    let s := asks .a ([0x11, slotByte 0, 15] ++ colourOf red) { sample with
      slots := sample.slots.set 0 { sampleSlot with quota := 2 } }
    Granted s .a ([0x11, slotByte 0, 15] ++ colourOf red) ∧ ownsOpen s .a 0 ∧ s.entry 0 15 = none ∧
      (s.slot 0).privCount = (s.slot 0).quota :=
  ⟨granted_asks rfl, by decide +kernel⟩

theorem witness_AllocPrivateMakesPrivateCell_noCells :
    let s := asks .a ([0x11, slotByte 2, 0] ++ colourOf red) exhausted
    Granted s .a ([0x11, slotByte 2, 0] ++ colourOf red) ∧ ownsOpen s .a 2 ∧ s.entry 2 0 = none ∧
      (s.slot 2).privCount < (s.slot 2).quota ∧ s.freeList = [] :=
  ⟨granted_asks rfl, by decide +kernel⟩

theorem witness_AllocRangeBindsEveryIndex :
    let s := asks .a ([0x12, slotByte 0, 14, 2] ++ colourOf red) sample
    TablesOk s ∧ Granted s .a ([0x12, slotByte 0, 14, 2] ++ colourOf red) ∧ ownsOpen s .a 0 ∧
      (14#8).toNat + (2#8).toNat ≤ (s.slot 0).size.entries ∧
      (∀ k, k < (2#8).toNat → s.entry 0 ((14#8).toNat + k) = none) ∧
      (s.slot 0).privCount + (2#8).toNat ≤ (s.slot 0).quota ∧ (2#8).toNat ≤ s.freeList.length ∧ hasRoom s (2 * 2) :=
  ⟨tablesOk_asks sample_tables, granted_asks rfl, by decide +kernel⟩

theorem witness_StoreSetsPrivateValue :
    let s := asks .a ([0x13, slotByte 0, 0] ++ colourOf grey) sample
    Granted s .a ([0x13, slotByte 0, 0] ++ colourOf grey) ∧ ownsOpen s .a 0 ∧ s.entry 0 0 = some 0 ∧
      s.cell 0 = .priv red 0 0 ∧ hasRoom s 1 :=
  ⟨granted_asks rfl, by decide +kernel⟩

theorem witness_LoadValuesSetsRunOfValues :
    let cmd := [0x14, slotByte 0, 3, BitVec.ofNat 8 [red].length] ++ [red].flatMap colourOf
    let s := asks .a cmd sample
    Granted s .a cmd ∧ ownsOpen s .a 0 ∧ (3#8).toNat + [red].length ≤ (s.slot 0).size.entries ∧
      (∀ k c, [(2 : CellNo)][k]? = some c → s.entry 0 ((3#8).toNat + k) = some c ∧
        ∃ old, s.cell c = .priv old 0 ((3#8).toNat + k)) ∧ hasRoom s 1 := by
  refine ⟨granted_asks rfl, by decide +kernel, by decide +kernel, fun k c h => ?_, by decide +kernel⟩
  match k with
  | 0 =>
    cases h
    exact ⟨by decide +kernel, grey, by decide +kernel⟩
  | k + 1 => simp at h

theorem witness_ReleaseUnbindsEntry_bound :
    let s := asks .a [0x15, slotByte 0, 3] sample
    TablesOk s ∧ Granted s .a [0x15, slotByte 0, 3] ∧ ownsOpen s .a 0 ∧ s.entry 0 3 ≠ none ∧ hasRoom s 1 :=
  ⟨tablesOk_asks sample_tables, granted_asks rfl, by decide +kernel⟩

theorem witness_ReleaseUnbindsEntry_unbound :
    let s := asks .a [0x15, slotByte 0, 15] sample
    TablesOk s ∧ Granted s .a [0x15, slotByte 0, 15] ∧ ownsOpen s .a 0 ∧ (15#8).toNat < (s.slot 0).size.entries ∧
      s.entry 0 15 = none :=
  ⟨tablesOk_asks sample_tables, granted_asks rfl, by decide +kernel⟩

theorem witness_ReleaseRangeUnbindsBoundEntries_some :
    let s := asks .a [0x16, slotByte 0, 0, 16] sample
    TablesOk s ∧ Granted s .a [0x16, slotByte 0, 0, 16] ∧ ownsOpen s .a 0 ∧
      (0#8).toNat + (16#8).toNat ≤ (s.slot 0).size.entries ∧
      [0, 1, 2, 3] = (List.range' 0 16).filter (fun i => (s.entry 0 i).isSome) ∧ hasRoom s 4 :=
  ⟨tablesOk_asks sample_tables, granted_asks rfl, by decide +kernel⟩

theorem witness_ReleaseRangeUnbindsBoundEntries_none :
    let s := asks .a [0x16, slotByte 0, 15, 1] sample
    TablesOk s ∧ Granted s .a [0x16, slotByte 0, 15, 1] ∧ ownsOpen s .a 0 ∧
      (15#8).toNat + (1#8).toNat ≤ (s.slot 0).size.entries ∧
      [] = (List.range' 15 1).filter (fun i => (s.entry 0 i).isSome) :=
  ⟨tablesOk_asks sample_tables, granted_asks rfl, by decide +kernel⟩

theorem witness_FreezeMergesIntoSharedCell :
    let s := asks .a [0x17, slotByte 0, 3] sample
    TablesOk s ∧ Granted s .a [0x17, slotByte 0, 3] ∧ ownsOpen s .a 0 ∧ s.entry 0 3 = some 2 ∧
      s.cell 2 = .priv grey 0 3 ∧ s.cell 1 = .shared grey 2 ∧ hasRoom s 1 :=
  ⟨tablesOk_asks sample_tables, granted_asks rfl, by decide +kernel⟩

theorem witness_FreezeTurnsCellSharedInPlace :
    let s := asks .a [0x17, slotByte 0, 0] sample
    TablesOk s ∧ Granted s .a [0x17, slotByte 0, 0] ∧ ownsOpen s .a 0 ∧ s.entry 0 0 = some 0 ∧
      s.cell 0 = .priv red 0 0 ∧ ∀ d h, s.cell d ≠ .shared red h :=
  ⟨tablesOk_asks sample_tables, granted_asks rfl, by decide +kernel, by decide +kernel, by decide +kernel,
    asks_has_no_shared_red⟩

/-! ## Witnesses: reports, screen, configuration -/

theorem witness_QueryIndexReportsBothBindings :
    (∀ n i, Granted (asks .a [0x18, slotByte n, i] sample) .a [0x18, slotByte n, i]) ∧
      (sample.slot 0).state ≠ .closed ∧ (sample.slot 2).state = .draining ∧
      ((15#8).toNat < (sample.slot 0).size.entries ∧ sample.entry 0 15 = none) ∧
      (sample.entry 0 1 = some 1 ∧ sample.cell 1 = .shared grey 2) ∧
      (sample.entry 0 0 = some 0 ∧ sample.cell 0 = .priv red 0 0) ∧
      sample.display.slots[0].shown = true ∧ sample.display.slots[0].entries.getD 15 none = none ∧
      sample.display.slots[0].entries.getD 3 none = some 2 := by
  refine ⟨fun _ _ => granted_asks rfl, ?_⟩
  decide +kernel

theorem witness_FindValueReportsSharedCell :
    (∀ v, TablesOk (asks .a (0x19 :: colourOf v) sample) ∧
      Granted (asks .a (0x19 :: colourOf v) sample) .a (0x19 :: colourOf v)) ∧
      sample.cell 1 = .shared grey 2 ∧ ∀ c h, sample.cell c ≠ .shared red h :=
  ⟨fun _ => ⟨tablesOk_asks sample_tables, granted_asks rfl⟩, by decide +kernel, sample_has_no_shared_red⟩

theorem witness_ReadStateReportsOccupancy :
    Granted (asks .a [0x23] sample) .a [0x23] ∧ TablesOk sample := ⟨granted_asks rfl, sample_tables⟩

theorem witness_SetBandStagesRecord :
    let cmd := [0x32, BitVec.ofNat 8 (3 : BandNo).val, 1, 7, 0xFF, slotByte 7, 240]
    let s := asks .a cmd sample
    Granted s .a cmd ∧ s.controlPort = .a ∧ (7#8).toNat * 256 + (0xFF#8).toNat ≤ 2047 ∧ hasRoom s 1 :=
  ⟨granted_asks rfl, rfl, by decide, by decide +kernel⟩

theorem witness_SetConfigSetsIntervalAndWatermark :
    let s := asks .a [0x33, 0, 2, 0] sample
    Granted s .a [0x33, 0, 2, 0] ∧ s.controlPort = .a ∧ (2#8).toNat * 256 + (0#8).toNat ≤ 512 :=
  ⟨granted_asks rfl, rfl, by decide⟩

theorem witness_SetBlankSetsWorkingBlank :
    let s := asks .a (0x34 :: colourOf red) sample
    Granted s .a (0x34 :: colourOf red) ∧ s.controlPort = .a ∧ hasRoom s 1 :=
  ⟨granted_asks rfl, rfl, by decide +kernel⟩

/-! ## Witnesses: the engine -/

theorem witness_EveryGrantIsAnswered :
    ∀ c, Granted (asks .a [codeOf c] sample) .a [codeOf c] ∧ byteAt [codeOf c] 1 = codeOf c :=
  fun _ => ⟨granted_asks rfl, rfl⟩

theorem asks_portOk : PortsOk (asks .a [0x01, 0] sample) :=
  ⟨⟨by decide, by decide, by decide, by decide, by decide, by decide, by decide⟩,
    ⟨by decide, by decide, by decide, by decide, by decide, by decide, by decide⟩⟩

/-- The sample with a full staging queue that Port A asks: slot 0 is Port A's, slot 1 is OPEN. -/
theorem witness_EngineAppendsOneFittingBatch_stageFull :
    (∀ cmd, Granted (asks .a cmd stuffed) .a cmd ∧ ¬ hasRoom (asks .a cmd stuffed) 1 ∧
      ownsOpen (asks .a cmd stuffed) .a 0 ∧ (asks .a cmd stuffed).controlPort = .a ∧
      ((asks .a cmd stuffed).slot 1).state = .opened) ∧
      byteAt bandCommand 1 = 0x32 ∧ (byteAt bandCommand 2).toNat < 4 ∧ wordAt bandCommand 4 ≤ 2047 ∧
      (byteAt bandCommand 6).toNat < 8 := by
  have h (s : State) (cmd : List Byte) : (asks .a cmd s).queue = s.queue ∧ (asks .a cmd s).slots = s.slots ∧
      (asks .a cmd s).controlPort = s.controlPort := ⟨rfl, rfl, rfl⟩
  have stuffedOk : ¬ hasRoom stuffed 1 ∧ ownsOpen stuffed .a 0 ∧ stuffed.controlPort = .a ∧
      (stuffed.slot 1).state = .opened := by
    decide +kernel
  exact ⟨fun cmd => ⟨granted_asks rfl, by simpa only [hasRoom, ownsOpen, State.slot, h] using stuffedOk⟩, by decide⟩

theorem witness_EngineAppendsOneFittingBatch :
    PortsOk (asks .a [0x01, 0] sample) ∧
      ∃ t, exec (commandRow .openMap .a) (asks .a [0x01, 0] sample) = .next t := by
  have h : Granted (asks .a [0x01, 0] sample) .a [0x01, 0] := granted_asks rfl
  exact ⟨asks_portOk, _, h.grant (c := .openMap) rfl answerOpenMap⟩

/-- The first bytes of a binding command, and of ALLOC_RANGE. -/
theorem witness_BindingChecksInOrder :
    (∀ slot index, Granted (asks .a [0x15, slot, index] sample) .a [0x15, slot, index]) ∧
      (∀ slot first count, Granted (asks .a [0x12, slot, first, count, 0, 0, 0] sample) .a
        [0x12, slot, first, count, 0, 0, 0]) ∧
      codeOf .release = 0x15 ∧ codeOf .allocRange = 0x12 ∧ 8 ≤ (8#8).toNat ∧ (0#8).toNat = 0 ∧ 17 ≤ (17#8).toNat ∧
      (sample.slot 2).state ≠ .opened ∧ (sample.slot 3).state ≠ .opened ∧
      ((sample.slot 1).state = .opened ∧ (sample.slot 1).owner ≠ some .a) ∧ ownsOpen sample .a 0 ∧
      (sample.slot 0).size.entries < (16#8).toNat + 1 ∧ (sample.slot 0).size.entries < (1#8).toNat + (16#8).toNat := by
  refine ⟨fun _ _ => granted_asks rfl, fun _ _ _ => granted_asks rfl, rfl, rfl, ?_⟩
  decide +kernel

/-- Slot 0 of 16 entries is Port A's, slot 1 Port B's, slot 2 DRAINING and slot 3 CLOSED. -/
theorem witness_BindingChecksInOrder_otherCommands :
    (∀ slot, Granted (asks .a [0x02, slot] sample) .a [0x02, slot] ∧
      Granted (asks .a [0x03, slot, 0, 0, 0] sample) .a [0x03, slot, 0, 0, 0] ∧
      Granted (asks .a [0x04, slot] sample) .a [0x04, slot]) ∧
      (∀ slot index, Granted (asks .a [0x18, slot, index] sample) .a [0x18, slot, index]) ∧
      codeOf .closeMap = 0x02 ∧ codeOf .setFallback = 0x03 ∧ 8 ≤ (8#8).toNat ∧
      (sample.slot 2).state ≠ .opened ∧ (sample.slot 3).state = .closed ∧
      ((sample.slot 1).state = .opened ∧ (sample.slot 1).owner ≠ some .a) ∧
      (sample.slot 2).state ≠ .closed ∧ (sample.slot 2).size.entries ≤ (16#8).toNat := by
  refine ⟨fun _ => ⟨granted_asks rfl, granted_asks rfl, granted_asks rfl⟩, fun _ _ => granted_asks rfl, rfl, rfl, ?_⟩
  decide +kernel

/-- Each argument at the least value out of range, and FORCE_CLOSE of a CLOSED slot from the control port. -/
theorem witness_PrivilegeIsTheControlPorts_arguments :
    (∀ p cmd, Granted (asks p cmd sample) p cmd) ∧
      8 ≤ (byteAt [0x30, 8] 2).toNat ∧ 8 ≤ (byteAt [0x31, 8, 0, 0] 2).toNat ∧ 512 < wordAt [0x31, 0, 2, 1] 3 ∧
      4 ≤ (byteAt [0x32, 4, 0, 0, 0, 0, 0] 2).toNat ∧ 2047 < wordAt [0x32, 0, 0, 8, 0, 0, 0] 4 ∧
      8 ≤ (byteAt [0x32, 0, 0, 0, 0, 8, 0] 6).toNat ∧ 512 < wordAt [0x33, 0, 2, 1] 3 ∧
      byteAt [0x30, 3] 2 = slotByte 3 ∧ (asks .a [0x30, 3] sample).controlPort = .a ∧
      ((asks .a [0x30, 3] sample).slot 3).state ≠ .opened := by
  refine ⟨fun p _ => ?_, ?_⟩
  · cases p <;> exact granted_asks rfl
  · decide +kernel

theorem witness_PrivilegeIsTheControlPorts :
    (∀ cmd, Granted (asks .b cmd sample) .b cmd ∧ (asks .b cmd sample).controlPort ≠ .b) ∧
      (byteAt [0x30, 7] 1 = 0x30 ∧ (byteAt [0x30, 7] 2).toNat < 8) ∧
      (byteAt [0x31, 7, 2, 0] 1 = 0x31 ∧ (byteAt [0x31, 7, 2, 0] 2).toNat < 8 ∧ wordAt [0x31, 7, 2, 0] 3 ≤ 512) ∧
      (byteAt [0x32, 3, 0, 7, 0xFF, 7, 0] 1 = 0x32 ∧ (byteAt [0x32, 3, 0, 7, 0xFF, 7, 0] 2).toNat < 4 ∧
        wordAt [0x32, 3, 0, 7, 0xFF, 7, 0] 4 ≤ 2047 ∧ (byteAt [0x32, 3, 0, 7, 0xFF, 7, 0] 6).toNat < 8) ∧
      (byteAt [0x33, 0, 2, 0] 1 = 0x33 ∧ wordAt [0x33, 0, 2, 0] 3 ≤ 512) ∧ byteAt [0x34, 0, 0, 0] 1 = 0x34 := by
  refine ⟨fun _ => ⟨granted_asks rfl, by change Port.a ≠ .b; decide⟩, ?_⟩
  decide

/-- Slot 0 of the sample: index 0 private, 1 shared, 15 UNBOUND; the crowded and the exhausted states for
the resource checks. -/
theorem witness_BindingRefusesByEntryAndResource :
    (∀ cmd, TablesOk (asks .a cmd sample) ∧ Granted (asks .a cmd sample) .a cmd) ∧
      (∀ cmd, TablesOk (asks .a cmd crowded) ∧ Granted (asks .a cmd crowded) .a cmd) ∧
      (∀ cmd, TablesOk (asks .a cmd exhausted) ∧ Granted (asks .a cmd exhausted) .a cmd) ∧
      (ownsOpen sample .a 0 ∧ ownsOpen crowded .a 0 ∧ ownsOpen crowded .a 1 ∧ ownsOpen exhausted .a 2) ∧
      (∃ k, k < 16 ∧ sample.entry 0 (0 + k) ≠ none) ∧ sample.entry 0 15 = none ∧
      (sample.entry 0 1 = some 1 ∧ isShared sample 1 = true) ∧
      (∀ j, j < 0 → (sample.entry 0 (0 + j)).any (isPriv sample) = true) ∧
      ((∀ j, j < 1 → (sample.entry 0 (0 + j)).any (isPriv sample) = true) ∧ sample.entry 0 (0 + 1) = some 1) ∧
      ((∀ k, k < 3 → sample.entry 0 (13 + k) = none) ∧ (sample.slot 0).quota < (sample.slot 0).privCount + 3) ∧
      ((∀ k, k < 1 → exhausted.entry 2 (0 + k) = none) ∧
        (exhausted.slot 2).privCount + 1 ≤ (exhausted.slot 2).quota ∧ exhausted.freeList.length < 1) ∧
      (crowded.entry 0 255 = none ∧ crowded.cell 0 = .shared grey 255) ∧
      (∀ d h, exhausted.cell d ≠ .shared grey h) ∧
      crowded.entry 1 0 = some 1 ∧ crowded.cell 1 = .priv grey 1 0 := by
  refine ⟨fun _ => ⟨tablesOk_asks sample_tables, granted_asks rfl⟩,
    fun _ => ⟨tablesOk_asks crowded_tables, granted_asks rfl⟩,
    fun _ => ⟨tablesOk_asks exhausted_tables, granted_asks rfl⟩, by decide +kernel, ⟨0, by decide +kernel⟩,
    by decide +kernel, by decide +kernel, by decide +kernel, by decide +kernel, by decide +kernel, by decide +kernel,
    by decide +kernel, ?_, by decide +kernel⟩
  intro d h
  simp [State.cell, exhausted]

theorem stuffed_tables : TablesOk stuffed :=
  tablesOk_queued sample_tables

theorem stuffed_has_no_shared_red : ∀ d h, stuffed.cell d ≠ .shared red h := by
  have h (s : State) (q : List Batch) (d : CellNo) : ({ s with queue := q } : State).cell d = s.cell d := rfl
  intro d
  rw [stuffed, h]
  exact sample_has_no_shared_red d

/-- The full queue with what each command needs to pass its other checks: slot 0 holds two private cells, a
shared cell of grey, and 12 UNBOUND entries, with a quota of 4; red is the value of no SHARED cell. -/
theorem witness_BindingRefusesByEntryAndResource_stageFull :
    (∀ cmd, TablesOk (asks .a cmd stuffed) ∧ Granted (asks .a cmd stuffed) .a cmd) ∧ ownsOpen stuffed .a 0 ∧
      (∀ k, ¬ hasRoom stuffed k) ∧ (stuffed.entry 0 15 = none ∧ stuffed.cell 1 = .shared grey 2) ∧
      ((∀ d h, stuffed.cell d ≠ .shared red h) ∧ stuffed.freeList ≠ []) ∧
      ((∀ k, k < 2 → stuffed.entry 0 (14 + k) = none) ∧ (stuffed.slot 0).privCount + 2 ≤ (stuffed.slot 0).quota ∧
        2 ≤ stuffed.freeList.length) ∧
      (∀ k, k < 1 → (stuffed.entry 0 (3 + k)).any (isPriv stuffed) = true) ∧
      (stuffed.entry 0 1 ≠ none ∧
        4 = (List.range' 0 16).countP fun i => (stuffed.entry 0 i).isSome) ∧
      stuffed.entry 0 3 = some 2 ∧ stuffed.cell 2 = .priv grey 0 3 :=
  ⟨fun _ => ⟨tablesOk_asks stuffed_tables, granted_asks rfl⟩, by decide +kernel, fun _ h => absurd h.1 (by decide),
    by decide +kernel, ⟨stuffed_has_no_shared_red, by decide +kernel⟩, by decide +kernel, by decide +kernel,
    by decide +kernel, by decide +kernel⟩

/-- Both ports ask, and Port A was granted last. -/
def bothAsk : State := { asks .a [0x20] (asks .b [0x20] sample) with lastGranted := .a }

theorem witness_EventsThatDoNotAriseStop :
    (sample.port .a).request = false ∧
      (bothAsk.port Port.a.other).request = true ∧ bothAsk.lastGranted = .a ∧
      (Granted (asks .a [0x20] sample) .a [0x20] ∧ byteAt [0x20] 1 ≠ codeOf .getNotice) ∧
      (sample.port .a).seq ≠ .collecting ∧
      { sample with commit := { sample.commit with timer := .stopped } }.commit.timer = .stopped ∧
      sample.commit.state = .idle :=
  ⟨rfl, rfl, rfl, ⟨granted_asks rfl, by decide⟩, by decide, rfl, rfl⟩

/-! ## Examples of spec/ -/

/-- The answer of the engine to Port `p`, byte by byte. -/
def answerTo (p : Port) (o : Host.Outcome State Fault Refusal) : Option (List Byte) :=
  match o with
  | .next t => (t.port p).result.map fun r => r.bytes
  | _ => none

/-- Table 9-14: SET_BAND from the control port, from the other port, and with a first line of 2048. -/
theorem test_set_band_example :
    answerTo .a (exec (.setBand .a) (asks .a [0x32, 0x02, 0x01, 0x01, 0xB8, 0x00, 0xF0] sample)) = some [0x00] ∧
      answerTo .b (exec (.setBand .b) (asks .b [0x32, 0x02, 0x01, 0x01, 0xB8, 0x00, 0xF0] sample)) = some [0x05] ∧
      answerTo .b (exec (.setBand .b) (asks .b [0x32, 0x02, 0x01, 0x08, 0x00, 0x00, 0xF0] sample)) = some [0x04] := by
  decide +kernel

/-- R112: with base 250, pixel index 0 is looked up at 250, 5 at 255, 6 at 0 and 10 at 4. -/
theorem test_effective_index_example :
    effectiveIndex 0 250 = 250 ∧ effectiveIndex 5 250 = 255 ∧ effectiveIndex 6 250 = 0 ∧ effectiveIndex 10 250 = 4 ∧
      effectiveIndex 16 240 = 0 := by
  decide

/-- Section 9.2: the control port in REPLY with a notice and a clean exchange reads 0x57. -/
theorem test_status_byte_example :
    (sample.setPort .a { PortState.reset with
      seq := .reply, result := some ⟨[0], 0⟩, notices := [.rasterIdle] }).statusByte .a = 0x57 := by
  decide

/-- R177: a MAP_REVOKED that names slots 3 and 6 reads 0x00, 0x48. -/
theorem test_map_revoked_payload_example :
    takeRaise ⟨false, true, false, false⟩ (takeRaise ⟨false, true, false, false⟩ [] (.mapRevoked (slotBit 3)))
      (.mapRevoked (slotBit 6)) = [.mapRevoked 0x48] ∧ payloadBytes (.mapRevoked 0x48) = [0x00, 0x48] := by
  decide

/-- Section 6.12.1: the result of an ALLOC_SHARED that makes a cell. -/
theorem test_alloc_shared_example :
    answerTo .a (exec (.allocShared .a) (asks .a [0x10, 0x00, 0x04, 0x00, 0x00, 0x00] sample)) =
      some [0x00, 0x00, 0x03, 0x01] := by
  decide +kernel

/-- The state after part reset reads as Tables 6-6 and 7-5 say: READY, and CONTROL at Port A alone. -/
theorem test_status_after_reset : State.reset.statusByte .a = 0x41 ∧ State.reset.statusByte .b = 0x01 := by decide

end Sys2Proof.Tests
end

section
/-! PROOFS. What a delivered acceptance leaves of the state before the command, a term of the statements
at a time: `u` is the state with the command's working changes made, `s` the state before. -/

namespace Sys2Proof.Machine

variable {s u : State} {p : Port}

/-- A granted command whose answer is an acceptance delivers it. -/
theorem Granted.accepted {cmd : List Byte} {c : Command} (h : Granted s p cmd)
    (hc : commandOfByte (byteAt cmd 1) = some c) {answer : Port → List Byte → State → Answer} {fields : List Byte}
    (ha : answer p cmd s = .accepted u fields) :
    Sys2Proof.Machine.grant c answer p s = .next (s.deliver p (.accepted u fields)) :=
  ha ▸ h.grant hc answer

/-- The hypothesis lets the notice set and the mask change, as under GET_NOTICE, SET_NOTICES and a raise. -/
theorem Answered.of_deliver_accepted
    (h : u.port p = { s.port p with notices := (u.port p).notices, mask := (u.port p).mask }) (fields : List Byte) :
    Answered s (s.deliver p (.accepted u fields)) p (0x00 :: fields) where
  last := rfl
  port := by rw [State.port_deliver_accepted, h]; rfl

theorem EngineFrame.of_deliver_accepted (fields : List Byte) (hdisplay : u.display = s.display)
    (hscan : u.scan = s.scan) (hcontrol : u.controlPort = s.controlPort) (hpending : u.pending = s.pending)
    (hother : u.port p.other = { s.port p.other with notices := (u.port p.other).notices }) :
    EngineFrame s (s.deliver p (.accepted u fields)) p where
  display := by simpa [Answer.tables] using hdisplay
  scan := by simpa [Answer.tables] using hscan
  controlPort := by simpa [Answer.tables] using hcontrol
  pending := by simpa [Answer.tables] using hpending
  other := by rw [State.port_deliver_other]; exact hother

theorem State.notices_deliver_accepted (fields : List Byte) (q : Port) :
    ((s.deliver p (.accepted u fields)).port q).notices = (u.port q).notices := by
  cases p <;> cases q <;> rfl

theorem State.mask_deliver_accepted (fields : List Byte) (q : Port) :
    ((s.deliver p (.accepted u fields)).port q).mask = (u.port q).mask := by
  cases p <;> cases q <;> rfl

theorem SameNotices.of_deliver_accepted (fields : List Byte) (h : ∀ q, u.port q = s.port q) :
    SameNotices s (s.deliver p (.accepted u fields)) where
  notices q := by rw [State.notices_deliver_accepted, h]
  mask q := by rw [State.mask_deliver_accepted, h]

theorem SameCells.of_deliver_accepted (fields : List Byte) (hcells : u.cells = s.cells)
    (hfree : u.freeList = s.freeList) (hindex : u.sharedIndex = s.sharedIndex) :
    SameCells s (s.deliver p (.accepted u fields)) where
  cells := by simpa [Answer.tables] using hcells
  freeList := by simpa [Answer.tables] using hfree
  sharedIndex := by simpa [Answer.tables] using hindex

theorem SameConfig.of_deliver_accepted (fields : List Byte) (hconfig : u.config = s.config)
    (hcommit : u.commit = s.commit) : SameConfig s (s.deliver p (.accepted u fields)) where
  config := by simpa [Answer.tables] using hconfig
  commit := by simpa [Answer.tables] using hcommit

/-- The batch is staged on a state whose working changes left the queue alone (R75, R77). -/
theorem Appended.of_deliver_accepted (fields : List Byte) (edits : List Edit) (hqueue : u.queue = s.queue)
    (hnext : u.nextBatch = s.nextBatch) :
    Appended s (s.deliver p (.accepted (u.appendBatch p edits) fields)) p edits where
  queue := by simp [Answer.tables, hqueue, hnext]
  nextBatch := by rw [← hnext, State.deliver_nextBatch]; rfl

theorem State.slot_deliver_accepted (fields : List Byte) (n : SlotNo) :
    (s.deliver p (.accepted u fields)).slot n = u.slot n := by
  simp [State.slot, Answer.tables]

theorem SlotBecomes.of_deliver_accepted (fields : List Byte) {n : SlotNo} {x : Slot}
    (h : ∀ m, u.slot m = if m = n then x else s.slot m) :
    SlotBecomes s (s.deliver p (.accepted u fields)) n x where
  slot := by rw [State.slot_deliver_accepted, h, if_pos rfl]
  others m hm := by rw [State.slot_deliver_accepted, h, if_neg hm]

/-- A batch that does not fit is refused at step 8 (R79). -/
theorem staged_refused {edits : List Edit} {fields : List Byte} (h : ¬ s.roomFor edits.length) :
    staged s p edits fields = .refusal .stageFull :=
  check_neg h

/-- The room that the statements speak of is the model's (R79). -/
theorem State.roomFor_iff_hasRoom {k : Nat} : s.roomFor k ↔ hasRoom s k := Iff.rfl

theorem State.roomFor_setSlot {n : SlotNo} {x : Slot} {k : Nat} :
    (s.setSlot n x).roomFor k ↔ s.roomFor k := Iff.rfl

end Sys2Proof.Machine
end

section
/-! PROOFS. OPEN_MAP (spec/02, R28, R29). -/

namespace Sys2Proof.Machine

variable {s : State} {p : Port}

/-! ## The size code and the slot that OPEN_MAP takes -/

/-- No map size has a size code above 2 (Table 9-1). -/
theorem sizeOfCode_eq_none {b : Byte} : sizeOfCode b = none ↔ 3 ≤ b.toNat := by
  unfold sizeOfCode
  split
  case h_4 h0 h1 h2 =>
    simp only [imp_false] at h0 h1 h2
    simp only [true_iff]
    omega
  all_goals simp [*]

/-- The lowest-numbered CLOSED slot is CLOSED, and no lower one is (R29). -/
theorem State.lowestClosed_eq_some {n : SlotNo} :
    s.lowestClosed = some n ↔ (s.slot n).state = .closed ∧ ∀ m, m < n → (s.slot m).state ≠ .closed := by
  rw [State.lowestClosed, ← Fin.find?_eq_find?_finRange, Fin.find?_eq_some_iff]
  simp

theorem State.lowestClosed_eq_none : s.lowestClosed = none ↔ ∀ n, (s.slot n).state ≠ .closed := by
  simp [State.lowestClosed]

/-! ## The answer of the engine -/

theorem exec_openMap (p : Port) (s : State) : exec (.openMap p) s = grant .openMap answerOpenMap p s := rfl

theorem answerOpenMap_badArgument {code : Byte} (h : sizeOfCode code = none) :
    answerOpenMap p [0x01, code] s = .refusal .badArgument := by
  simp [answerOpenMap, byteAt, h]

theorem answerOpenMap_noSlot {code : Byte} {size : MapSize} (h : sizeOfCode code = some size)
    (hn : s.lowestClosed = none) : answerOpenMap p [0x01, code] s = .refusal .noSlot := by
  simp [answerOpenMap, byteAt, h, hn]

theorem answerOpenMap_staged {code : Byte} {size : MapSize} {n : SlotNo} (h : sizeOfCode code = some size)
    (hn : s.lowestClosed = some n) :
    answerOpenMap p [0x01, code] s =
      staged (s.setSlot n ((s.slot n).openedFor p size)) p [.mapOpen n size] (oneByte n) := by
  simp [answerOpenMap, byteAt, h, hn]

/-! ## The working changes of an accepted OPEN_MAP (R29) -/

/-- The state after an accepted OPEN_MAP, before the result is delivered: the slot is opened and MAP_OPEN
staged. -/
def State.openMapAt (s : State) (p : Port) (n : SlotNo) (size : MapSize) : State :=
  (s.setSlot n ((s.slot n).openedFor p size)).appendBatch p [.mapOpen n size]

theorem answerOpenMap_accepted {code : Byte} {size : MapSize} {n : SlotNo} (h : sizeOfCode code = some size)
    (hn : s.lowestClosed = some n) (hroom : hasRoom s 1) :
    answerOpenMap p [0x01, code] s = .accepted (s.openMapAt p n size) [slotByte n] := by
  rw [answerOpenMap_staged h hn, staged_accepted, State.roomFor_setSlot]
  exact ⟨State.roomFor_iff_hasRoom.2 hroom, rfl, rfl⟩

@[simp] theorem State.port_openMapAt (n : SlotNo) (size : MapSize) (q : Port) :
    (s.openMapAt p n size).port q = s.port q := by
  simp [State.openMapAt]

theorem State.slot_openMapAt (n : SlotNo) (size : MapSize) (m : SlotNo) :
    (s.openMapAt p n size).slot m = if m = n then (s.slot n).openedFor p size else s.slot m := by
  simp [State.openMapAt, State.slot_setSlot]

/-! ## The obligations -/

/-- Settles O31: the answer is the acceptance of openMapAt, and each clause is read off its delivery. -/
theorem openMapTakesLowestClosedSlot : Obligations.OpenMapTakesLowestClosedSlot := by
  intro p s code n size hgrant hsize hclosed hlowest hroom
  have hcode : sizeOfCode code = some size := by
    rcases hsize with ⟨rfl, rfl⟩ | ⟨rfl, rfl⟩ | ⟨rfl, rfl⟩ <;> rfl
  have hslot : s.lowestClosed = some n := State.lowestClosed_eq_some.2 ⟨hclosed, hlowest⟩
  have hanswer := answerOpenMap_accepted (p := p) hcode hslot hroom
  have hexec : exec (.openMap p) s = .next (s.deliver p (.accepted (s.openMapAt p n size) [slotByte n])) :=
    (exec_openMap p s).trans (hgrant.accepted rfl hanswer)
  exact ⟨_, hexec,
    .of_deliver_accepted (by simp) _,
    .of_deliver_accepted _ rfl rfl rfl rfl (by simp),
    .of_deliver_accepted _ (State.slot_openMapAt n size),
    .of_deliver_accepted _ rfl rfl rfl,
    .of_deliver_accepted _ rfl rfl,
    .of_deliver_accepted _ (by simp),
    .of_deliver_accepted _ [.mapOpen n size] rfl rfl⟩

/-- Settles O32: the checks of OPEN_MAP stand in the order of R28. -/
theorem openMapRefusalsInOrder : Obligations.OpenMapRefusalsInOrder := by
  intro p s code hgrant
  have hrefused {result : ResultCode} (h : answerOpenMap p [0x01, code] s = .refusal result) :
      ∃ t, exec (.openMap p) s = .next t ∧ RefusedWith s t p (resultByte result) :=
    exec_openMap p s ▸ hgrant.refused rfl h
  have hsize (h : code.toNat ≤ 2) : ∃ size, sizeOfCode code = some size :=
    Option.ne_none_iff_exists'.1 fun hnone => by have := sizeOfCode_eq_none.1 hnone; omega
  refine ⟨fun hbad => ?badArgument, fun hgood hnone => ?noSlot, fun hgood hsome hfull => ?stageFull⟩
  case badArgument => exact hrefused (answerOpenMap_badArgument (sizeOfCode_eq_none.2 hbad))
  case noSlot =>
    obtain ⟨size, hcode⟩ := hsize hgood
    exact hrefused (answerOpenMap_noSlot hcode (State.lowestClosed_eq_none.2 hnone))
  case stageFull =>
    obtain ⟨size, hcode⟩ := hsize hgood
    obtain ⟨n, hslot⟩ : ∃ n, s.lowestClosed = some n := by
      obtain ⟨m, hm⟩ := hsome
      exact Option.ne_none_iff_exists'.1 fun hnone => State.lowestClosed_eq_none.1 hnone m hm
    exact hrefused ((answerOpenMap_staged hcode hslot).trans (staged_refused (mt State.roomFor_iff_hasRoom.1 hfull)))

end Sys2Proof.Machine
end

section
/-! PROOFS. The delivery of a command whose working changes are to the tables alone: the cells, the free
list, the shared-value index and the slots. -/

namespace Sys2Proof.Machine

variable {s u : State} {p : Port} {cmd : List Byte} {c : Command} {edits : List Edit} {fields : List Byte}
  {answer : Port → List Byte → State → Answer}

/-- `u` differs from `s` in the working tables at most. -/
def TablesOnly (s u : State) : Prop :=
  u = { s with cells := u.cells, freeList := u.freeList, sharedIndex := u.sharedIndex, slots := u.slots }

theorem TablesOnly.eq (h : TablesOnly s u) :
    u = { s with cells := u.cells, freeList := u.freeList, sharedIndex := u.sharedIndex, slots := u.slots } := h

theorem TablesOnly.refl (s : State) : TablesOnly s s := rfl

theorem TablesOnly.trans {t : State} (h : TablesOnly s t) (k : TablesOnly t u) : TablesOnly s u := by
  unfold TablesOnly at *
  rw [k, h]

theorem TablesOnly.config (h : TablesOnly s u) : u.config = s.config := by rw [h.eq]
theorem TablesOnly.commit (h : TablesOnly s u) : u.commit = s.commit := by rw [h.eq]
theorem TablesOnly.queue (h : TablesOnly s u) : u.queue = s.queue := by rw [h.eq]
theorem TablesOnly.nextBatch (h : TablesOnly s u) : u.nextBatch = s.nextBatch := by rw [h.eq]
theorem TablesOnly.display (h : TablesOnly s u) : u.display = s.display := by rw [h.eq]
theorem TablesOnly.scan (h : TablesOnly s u) : u.scan = s.scan := by rw [h.eq]
theorem TablesOnly.controlPort (h : TablesOnly s u) : u.controlPort = s.controlPort := by
  rw [h.eq]
theorem TablesOnly.pending (h : TablesOnly s u) : u.pending = s.pending := by rw [h.eq]

theorem TablesOnly.port (h : TablesOnly s u) (q : Port) : u.port q = s.port q := by
  rw [h.eq]
  cases q <;> rfl

/-- The state `t` delivers the result OK with the fields for a command that port `p` issued in `s`, with
the working changes that lead to `u`; the queue and the notices are left to other clauses. -/
structure Delivers (s u t : State) (p : Port) (fields : List Byte) : Prop where
  answered : Answered s t p (0x00 :: fields)
  frame : EngineFrame s t p
  tables : SameCells u t
  slots : t.slots = u.slots
  config : SameConfig s t

section
variable {t : State} (d : Delivers s u t p fields)
include d

theorem Delivers.cell (x : CellNo) : t.cell x = u.cell x := by simp [State.cell, d.tables.cells]

theorem Delivers.slot (n : SlotNo) : t.slot n = u.slot n := by simp [State.slot, d.slots]

theorem Delivers.entry (n : SlotNo) (i : Nat) : t.entry n i = u.entry n i := by simp [State.entry, d.slot]

theorem Delivers.slotBecomes {n : SlotNo} {x : Slot} (h : ∀ m, u.slot m = if m = n then x else s.slot m) :
    SlotBecomes s t n x where
  slot := by rw [d.slot, h, if_pos rfl]
  others m hm := by rw [d.slot, h, if_neg hm]

end

/-- An accepted command that stages nothing is delivered. -/
theorem Granted.delivers_accepted (hg : Granted s p cmd) (hc : commandOfByte (byteAt cmd 1) = some c)
    (hu : TablesOnly s u) (ha : answer p cmd s = .accepted u fields) :
    ∃ t, Sys2Proof.Machine.grant c answer p s = .next t ∧ Delivers s u t p fields ∧
      SameNotices s t ∧ SameQueue s t :=
  ⟨_, hg.accepted hc ha,
    { answered := .of_deliver_accepted (by simp [hu.port]) _
      frame := .of_deliver_accepted _ hu.display hu.scan hu.controlPort hu.pending (by simp [hu.port])
      tables := .of_deliver_accepted _ rfl rfl rfl
      slots := s.deliver_slots p _
      config := .of_deliver_accepted _ hu.config hu.commit },
    .of_deliver_accepted _ hu.port,
    { queue := (s.deliver_queue p _).trans hu.queue
      nextBatch := (s.deliver_nextBatch p _).trans hu.nextBatch }⟩

/-- A batch that fits is staged, whatever the working changes to the tables (R79). -/
theorem staged_of_hasRoom (hq : u.queue = s.queue) (hroom : hasRoom s edits.length) :
    staged u p edits fields = .accepted (u.appendBatch p edits) fields :=
  check_pos (by simpa [State.roomFor, State.batchesUsed, State.editsUsed, editsIn, hq] using hroom)

/-- An accepted command that stages a batch is delivered. -/
theorem Granted.delivers_staged (hg : Granted s p cmd) (hc : commandOfByte (byteAt cmd 1) = some c)
    (hu : TablesOnly s u) (ha : answer p cmd s = staged u p edits fields) (hroom : hasRoom s edits.length) :
    ∃ t, Sys2Proof.Machine.grant c answer p s = .next t ∧ Delivers s u t p fields ∧
      SameNotices s t ∧ Appended s t p edits :=
  ⟨_, hg.accepted hc (ha.trans (staged_of_hasRoom hu.queue hroom)),
    { answered := .of_deliver_accepted (by simp [hu.port]) _
      frame := .of_deliver_accepted _ hu.display hu.scan hu.controlPort hu.pending (by simp [hu.port])
      tables := .of_deliver_accepted _ rfl rfl rfl
      slots := s.deliver_slots p _
      config := .of_deliver_accepted _ hu.config hu.commit },
    .of_deliver_accepted _ fun q => by simp [hu.port],
    .of_deliver_accepted _ edits hu.queue hu.nextBatch⟩

/-! ## The watermark (R72) -/

theorem State.port_raiseIfLow (u : State) (before : Nat) (q : Port) :
    (u.raiseIfLow before).port q = { u.port q with
      notices := if u.config.watermark ≤ before ∧ u.freeCount < u.config.watermark then
        takeRaise (u.port q).mask (u.port q).notices (.cellsLow u.freeCount) else (u.port q).notices } := by
  unfold State.raiseIfLow
  split
  · exact u.port_raiseBoth q _
  · rfl

/-- The crossing of R72 by a free count that falls from `s` to `u`; a watermark of 0 is not crossed. -/
theorem crossesWatermark_iff (hw : u.config = s.config) :
    crossesWatermark s u ↔ u.config.watermark ≤ s.freeCount ∧ u.freeCount < u.config.watermark := by
  rw [hw]
  constructor
  · rintro ⟨-, hbefore, hafter⟩
    exact ⟨hbefore, hafter⟩
  · rintro ⟨hbefore, hafter⟩
    exact ⟨by omega, hbefore, hafter⟩

/-- CELLS_LOW is offered by the comparison of the watermark, whatever follows it but the notices. -/
theorem LowCellsOffered.of_raiseIfLow {t : State} (hu : TablesOnly s u) (hfree : t.freeList = u.freeList)
    (hnotices : ∀ q, (t.port q).notices = ((u.raiseIfLow s.freeCount).port q).notices)
    (hmask : ∀ q, (t.port q).mask = ((u.raiseIfLow s.freeCount).port q).mask) : LowCellsOffered s t := by
  have hcount : t.freeCount = u.freeCount := congrArg List.length hfree
  refine ⟨fun q => ?_, fun q => ?_⟩
  · have hcross := crossesWatermark_iff (s := s) hu.config
    rw [crossesWatermark, ← hcount] at hcross
    rw [hnotices, State.port_raiseIfLow, ← hcount]
    simp [hcross, hu.port]
  · rw [hmask, State.port_raiseIfLow, hu.port]

/-- An accepted command that stages a batch and compares the watermark is delivered. -/
theorem Granted.delivers_staged_low (hg : Granted s p cmd) (hc : commandOfByte (byteAt cmd 1) = some c)
    (hu : TablesOnly s u) (ha : answer p cmd s = staged (u.raiseIfLow s.freeCount) p edits fields)
    (hroom : hasRoom s edits.length) :
    ∃ t, Sys2Proof.Machine.grant c answer p s = .next t ∧ Delivers s u t p fields ∧
      LowCellsOffered s t ∧ Appended s t p edits :=
  ⟨_, hg.accepted hc (ha.trans (staged_of_hasRoom (by simp [hu.queue]) hroom)),
    { answered := .of_deliver_accepted (by simp [State.port_raiseIfLow, hu.port]) _
      frame := .of_deliver_accepted _ (by simp [hu.display]) (by simp [hu.scan]) (by simp [hu.controlPort])
        (by simp [hu.pending]) (by simp [State.port_raiseIfLow, hu.port])
      tables := .of_deliver_accepted _ (by simp) (by simp) (by simp)
      slots := (s.deliver_slots p _).trans (by simp [Answer.tables])
      config := .of_deliver_accepted _ (by simp [hu.config]) (by simp [hu.commit]) },
    .of_raiseIfLow hu (by simp [Answer.tables]) (by simp [State.notices_deliver_accepted])
      (by simp [State.mask_deliver_accepted]),
    .of_deliver_accepted _ edits (by simp [hu.queue]) (by simp [hu.nextBatch])⟩

end Sys2Proof.Machine
end

section
/-! PROOFS. The checks that the binding commands share, passed (R149): the slot, its owner, the index or the
range. -/

namespace Sys2Proof.Machine

variable {s : State} {p : Port} {n : SlotNo} {k : Answer}

theorem withSlot_slotByte (n : SlotNo) (k : SlotNo → Answer) : withSlot (slotByte n) k = k n := by
  rw [withSlot, slotOfByte_slotByte]

theorem ifOwned_of_ownsOpen (h : ownsOpen s p n) : ifOwned s p n k = k :=
  (check_pos h.1).trans (check_pos h.2)

theorem ifIndex_of_lt {i : Nat} (h : i < (s.slot n).size.entries) : ifIndex s n i k = k := check_pos h

theorem ifRange_of_le {first count : Nat} (h : first + count ≤ (s.slot n).size.entries) :
    ifRange s n first count k = k := check_pos h

end Sys2Proof.Machine
end

section
/-! PROOFS. What the invariant of the working tables says of the shared-value index and of an OPEN slot. -/

namespace Sys2Proof.Machine

variable {s : State}

/-! ## What the invariant says of a cell, by its condition (R3 to R5) -/

theorem CellsOk.of_free (h : CellsOk s) {c : CellNo} (hc : s.cell c = .free) :
    c ∈ s.freeList ∧ boundCount s c = 0 := by
  simpa [cellOk, hc] using h.cells c

theorem CellsOk.of_shared (h : CellsOk s) {c : CellNo} {v : Colour} {k : Nat} (hc : s.cell c = .shared v k) :
    c ∉ s.freeList ∧ (v, c) ∈ s.sharedIndex ∧ k = boundCount s c ∧ 1 ≤ k ∧ k ≤ 255 := by
  simpa only [cellOk, hc, decide_eq_true_eq] using h.cells c

theorem CellsOk.of_priv (h : CellsOk s) {c : CellNo} {v : Colour} {n : SlotNo} {i : Nat}
    (hc : s.cell c = .priv v n i) : c ∉ s.freeList ∧ s.entry n i = some c ∧ boundCount s c = 1 := by
  simpa only [cellOk, hc, decide_eq_true_eq] using h.cells c

/-! ## The lookup (R15, R16) -/

theorem CellsOk.shared_of_pair (h : CellsOk s) {c : CellNo} {v : Colour} (hp : (v, c) ∈ s.sharedIndex) :
    ∃ k, s.cell c = .shared v k := by
  have hpair := h.pairs _ hp
  unfold pairOk at hpair
  split at hpair
  case h_1 w k hc =>
    obtain rfl : v = w := by simpa using hpair
    exact ⟨k, hc⟩
  case h_2 => cases hpair

/-- A lookup finds the one SHARED cell that holds the value (R15, R16). -/
theorem CellsOk.lookup_eq_some (h : CellsOk s) {c : CellNo} {v : Colour} {k : Nat} (hc : s.cell c = .shared v k) :
    s.lookup v = some c := by
  obtain ⟨-, hmem, -⟩ := h.of_shared hc
  cases hl : s.lookup v with
  | none => exact absurd rfl (State.lookup_none.1 hl _ hmem)
  | some d =>
    have heq : (v, d) = (v, c) := List.inj_on_of_nodup_map h.values (State.lookup_some hl) hmem rfl
    rw [(Prod.mk.injEq ..).mp heq |>.2]

/-- A lookup finds nothing when no SHARED cell holds the value (R16). -/
theorem CellsOk.lookup_eq_none (h : CellsOk s) {v : Colour} (hv : ∀ c k, s.cell c ≠ .shared v k) :
    s.lookup v = none := by
  refine State.lookup_none.2 fun ⟨w, c⟩ hmem heq => ?_
  obtain ⟨k, hc⟩ := h.shared_of_pair hmem
  obtain rfl : w = v := heq
  exact hv c k hc

theorem State.holders_of_shared {c : CellNo} {v : Colour} {k : Nat} (hc : s.cell c = .shared v k) :
    s.holders c = k := by
  simp [State.holders, hc]

/-! ## An OPEN slot (R24) -/

theorem SlotOk.length_entries {n : SlotNo} (h : SlotOk s n) (ho : (s.slot n).state = .opened) :
    (s.slot n).entries.length = (s.slot n).size.entries := by
  have hstate := h.state
  simp only [slotStateOk, ho, decide_eq_true_eq] at hstate
  exact hstate.2

end Sys2Proof.Machine
end

section
/-! PROOFS. ALLOC_SHARED and ALLOC_PRIVATE (spec/03, R47 to R52), and FIND_VALUE (R71). -/

namespace Sys2Proof.Machine

variable {s : State} {p : Port} {n : SlotNo} {i : Nat} {c : CellNo} {v : Colour}

/-! ## What binding one entry changes (R6, R7) -/

theorem State.cell_bindHeldShared (d : CellNo) :
    (s.bindHeldShared n i c v).cell d = if d = c then .shared v (s.holders c + 1) else s.cell d :=
  s.cell_setCell c d _

theorem State.slot_bindHeldShared (m : SlotNo) :
    (s.bindHeldShared n i c v).slot m =
      if m = n then { s.slot n with
        entries := (s.slot n).entries.set i (some c), sharedCount := (s.slot n).sharedCount + 1 }
      else s.slot m := by
  simp only [State.bindHeldShared, State.slot_setSharedCount, State.slot_setEntry, State.setCell_slot, if_true]
  by_cases hm : m = n <;> simp [hm]

theorem State.cell_bindNewShared (d : CellNo) :
    (s.bindNewShared n i c v).cell d = if d = c then .shared v 1 else s.cell d :=
  s.cell_setCell c d _

theorem State.slot_bindNewShared (m : SlotNo) :
    (s.bindNewShared n i c v).slot m =
      if m = n then { s.slot n with
        entries := (s.slot n).entries.set i (some c), sharedCount := (s.slot n).sharedCount + 1 }
      else s.slot m := by
  simp only [State.bindNewShared, State.slot_setSharedCount, State.slot_setEntry, State.addPair_slot,
    State.takeHead_slot, if_true]
  by_cases hm : m = n <;> simp [hm]

theorem State.mem_sharedIndex_bindNewShared (x : Colour × CellNo) :
    x ∈ (s.bindNewShared n i c v).sharedIndex ↔ x = (v, c) ∨ x ∈ s.sharedIndex :=
  mem_indexInsert v c s.sharedIndex x

theorem State.cell_bindPrivate (d : CellNo) :
    (s.bindPrivate n i c v).cell d = if d = c then .priv v n i else s.cell d :=
  s.cell_setCell c d _

theorem State.slot_bindPrivate (m : SlotNo) :
    (s.bindPrivate n i c v).slot m =
      if m = n then { s.slot n with
        entries := (s.slot n).entries.set i (some c), privCount := (s.slot n).privCount + 1 }
      else s.slot m := by
  simp only [State.bindPrivate, State.slot_setPrivCount, State.slot_setEntry, State.takeHead_slot, if_true]
  by_cases hm : m = n <;> simp [hm]

theorem TablesOnly.bindHeldShared : TablesOnly s (s.bindHeldShared n i c v) := rfl

theorem TablesOnly.bindNewShared : TablesOnly s (s.bindNewShared n i c v) := rfl

theorem TablesOnly.bindPrivate : TablesOnly s (s.bindPrivate n i c v) := rfl

/-! ## ALLOC_SHARED -/

theorem exec_allocShared (p : Port) (s : State) :
    exec (.allocShared p) s = grant .allocShared answerAllocShared p s := rfl

/-- The checks passed, ALLOC_SHARED goes on to its value. -/
theorem answerAllocShared_checked {i : Byte} (howns : ownsOpen s p n) (hi : i.toNat < (s.slot n).size.entries)
    (hunbound : s.entry n i.toNat = none) :
    answerAllocShared p ([0x10, slotByte n, i] ++ colourOf v) s = allocSharedAt p n i.toNat v s :=
  (withSlot_slotByte n _).trans <| (ifOwned_of_ownsOpen howns).trans <| (ifIndex_of_lt hi).trans <|
    check_pos hunbound

theorem allocSharedAt_held {k : Nat} (hlookup : s.lookup v = some c) (hc : s.cell c = .shared v k) (hk : k < 255) :
    allocSharedAt p n i v s =
      staged (s.bindHeldShared n i c v) p [.entry n i (some c)] (twoBytes c ++ flagByte false) := by
  rw [allocSharedAt, hlookup]
  exact check_pos (by rwa [State.holders_of_shared hc])

theorem allocSharedAt_new {rest : List CellNo} (hlookup : s.lookup v = none) (hfree : s.freeList = c :: rest) :
    allocSharedAt p n i v s =
      staged ((s.bindNewShared n i c v).raiseIfLow s.freeCount) p [.cellValue c v, .entry n i (some c)]
        (twoBytes c ++ flagByte true) := by
  simp [allocSharedAt, hlookup, hfree]

/-- Settles O38: the lookup finds the SHARED cell, and the command stages its one edit. -/
theorem allocSharedReusesSharedCell : Obligations.AllocSharedReusesSharedCell := by
  intro p s n i v c h htables hgrant howns hi hunbound hc hh hroom
  have hlookup := htables.cells.lookup_eq_some hc
  have hanswer := (answerAllocShared_checked howns hi hunbound).trans (allocSharedAt_held hlookup hc hh)
  obtain ⟨t, hexec, hdelivers, hnotices, happended⟩ :=
    hgrant.delivers_staged rfl .bindHeldShared hanswer hroom
  refine ⟨t, (exec_allocShared p s).trans hexec, hdelivers.answered, hdelivers.frame, ?_, fun d hd => ?_,
    hdelivers.tables.freeList, hdelivers.tables.sharedIndex, hdelivers.slotBecomes State.slot_bindHeldShared,
    hdelivers.config, hnotices, happended⟩
  · rw [hdelivers.cell, State.cell_bindHeldShared, if_pos rfl, State.holders_of_shared hc]
  · rw [hdelivers.cell, State.cell_bindHeldShared, if_neg hd]

/-- Settles O39: the lookup finds nothing, and the command takes the head of the free list. -/
theorem allocSharedMakesSharedCell : Obligations.AllocSharedMakesSharedCell := by
  intro p s n i v c rest htables hgrant howns hi hunbound hnone hfree hroom
  have hlookup := htables.cells.lookup_eq_none hnone
  have hanswer := (answerAllocShared_checked howns hi hunbound).trans (allocSharedAt_new hlookup hfree)
  obtain ⟨t, hexec, hdelivers, hlow, happended⟩ :=
    hgrant.delivers_staged_low rfl .bindNewShared hanswer hroom
  refine ⟨t, (exec_allocShared p s).trans hexec, hdelivers.answered, hdelivers.frame, ?_, fun d hd => ?_,
    hdelivers.tables.freeList.trans (congrArg List.tail hfree), fun x => ?_,
    hdelivers.slotBecomes State.slot_bindNewShared, hdelivers.config, hlow, happended⟩
  · rw [hdelivers.cell, State.cell_bindNewShared, if_pos rfl]
  · rw [hdelivers.cell, State.cell_bindNewShared, if_neg hd]
  · rw [hdelivers.tables.sharedIndex, State.mem_sharedIndex_bindNewShared]

/-! ## ALLOC_PRIVATE -/

theorem exec_allocPrivate (p : Port) (s : State) :
    exec (.allocPrivate p) s = grant .allocPrivate answerAllocPrivate p s := rfl

/-- The checks before the quota passed, ALLOC_PRIVATE is judged by its slot's quota. -/
theorem answerAllocPrivate_checked {i : Byte} (howns : ownsOpen s p n) (hi : i.toNat < (s.slot n).size.entries)
    (hunbound : s.entry n i.toNat = none) :
    answerAllocPrivate p ([0x11, slotByte n, i] ++ colourOf v) s =
      check ((s.slot n).privCount + 1 ≤ (s.slot n).quota) .quota (allocPrivateAt p n i.toNat v s) :=
  (withSlot_slotByte n _).trans <| (ifOwned_of_ownsOpen howns).trans <| (ifIndex_of_lt hi).trans <|
    check_pos hunbound

theorem allocPrivateAt_new {rest : List CellNo} (hfree : s.freeList = c :: rest) :
    allocPrivateAt p n i v s =
      staged ((s.bindPrivate n i c v).raiseIfLow s.freeCount) p [.cellValue c v, .entry n i (some c)]
        (twoBytes c) := by
  simp [allocPrivateAt, hfree]

theorem allocPrivateAt_noCells (hfree : s.freeList = []) : allocPrivateAt p n i v s = .refusal .noCells := by
  simp [allocPrivateAt, hfree]

/-- Settles O40: the quota and the free list decide between the binding and the two refusals. -/
theorem allocPrivateMakesPrivateCell : Obligations.AllocPrivateMakesPrivateCell := by
  intro p s n i v hgrant howns hi hunbound
  have hchecked := answerAllocPrivate_checked (v := v) howns hi hunbound
  refine ⟨fun c rest hquota hfree hroom => ?accepted, fun hquota => ?quota, fun hquota hfree => ?noCells⟩
  case accepted =>
    obtain ⟨t, hexec, hdelivers, hlow, happended⟩ := hgrant.delivers_staged_low rfl .bindPrivate
      (hchecked.trans ((check_pos hquota).trans (allocPrivateAt_new hfree))) hroom
    refine ⟨t, (exec_allocPrivate p s).trans hexec, hdelivers.answered, hdelivers.frame, ?_, fun d hd => ?_,
      hdelivers.tables.freeList.trans (congrArg List.tail hfree), hdelivers.tables.sharedIndex,
      hdelivers.slotBecomes State.slot_bindPrivate, hdelivers.config, hlow, happended⟩
    · rw [hdelivers.cell, State.cell_bindPrivate, if_pos rfl]
    · rw [hdelivers.cell, State.cell_bindPrivate, if_neg hd]
  case quota =>
    exact hgrant.refused rfl (hchecked.trans (check_neg (by omega)))
  case noCells =>
    exact hgrant.refused rfl (hchecked.trans ((check_pos hquota).trans (allocPrivateAt_noCells hfree)))

/-! ## FIND_VALUE -/

theorem exec_findValue (p : Port) (s : State) : exec (.findValue p) s = grant .findValue answerFindValue p s := rfl

theorem findFields_held {k : Nat} (hlookup : s.lookup v = some c) (hc : s.cell c = .shared v k) :
    findFields s v = 1 :: twoBytes c ++ [BitVec.ofNat 8 k] := by
  simp [findFields, hlookup, oneByte, State.holders_of_shared hc]

theorem findFields_none (hlookup : s.lookup v = none) : findFields s v = [0, 0, 0, 0] := by
  simp [findFields, hlookup]

/-- Settles O49: the report follows the lookup, which finds SHARED cells alone. -/
theorem findValueReportsSharedCell : Obligations.FindValueReportsSharedCell := by
  intro p s v htables hgrant
  obtain ⟨t, hexec, hdelivers, hnotices, hqueue⟩ :=
    hgrant.delivers_accepted (answer := answerFindValue) (fields := findFields s v) rfl (.refl s) rfl
  exact ⟨t, findFields s v, (exec_findValue p s).trans hexec, hdelivers.answered, hdelivers.frame,
    hdelivers.tables, hdelivers.slots, hdelivers.config, hqueue, hnotices,
    fun _ _ hc => findFields_held (htables.cells.lookup_eq_some hc) hc,
    fun hnone => findFields_none (htables.cells.lookup_eq_none hnone)⟩

end Sys2Proof.Machine
end

section
/-! PROOFS. ALLOC_RANGE (spec/03, R53, R54). -/

namespace Sys2Proof.Machine

variable {s : State} {p : Port} {n : SlotNo} {v : Colour} {pairs : List (Nat × CellNo)}

/-! ## What binding a range changes (R54) -/

theorem bindRange_cons (x : Nat × CellNo) :
    bindRange s n v (x :: pairs) = bindRange (s.bindPrivate n x.1 x.2 v) n v pairs := rfl

theorem TablesOnly.bindRange : TablesOnly s (bindRange s n v pairs) := by
  induction pairs generalizing s with
  | nil => exact .refl s
  | cons x pairs ih => exact TablesOnly.bindPrivate.trans ih

theorem sharedIndex_bindRange : (bindRange s n v pairs).sharedIndex = s.sharedIndex := by
  induction pairs generalizing s with
  | nil => rfl
  | cons x pairs ih => exact ih

theorem freeList_bindRange : (bindRange s n v pairs).freeList = s.freeList.drop pairs.length := by
  induction pairs generalizing s with
  | nil => rfl
  | cons x pairs ih =>
    rw [bindRange_cons, ih, List.length_cons]
    exact List.drop_tail

theorem cell_bindRange_of_notMem {c : CellNo} (hc : c ∉ pairs.map Prod.snd) :
    (bindRange s n v pairs).cell c = s.cell c := by
  induction pairs generalizing s with
  | nil => rfl
  | cons x pairs ih =>
    obtain ⟨hhead, htail⟩ := not_or.1 (mt List.mem_cons.2 hc)
    rw [bindRange_cons, ih htail, State.cell_bindPrivate, if_neg hhead]

theorem cell_bindRange_of_mem {i : Nat} {c : CellNo} (hnodup : (pairs.map Prod.snd).Nodup) (hx : (i, c) ∈ pairs) :
    (bindRange s n v pairs).cell c = .priv v n i := by
  induction pairs generalizing s with
  | nil => cases hx
  | cons x pairs ih =>
    obtain ⟨hhead, htail⟩ := List.nodup_cons.1 hnodup
    rcases List.mem_cons.1 hx with rfl | hx
    · rw [bindRange_cons, cell_bindRange_of_notMem hhead, State.cell_bindPrivate, if_pos rfl]
    · exact ih htail hx

/-- The slot of a bound range keeps all but its entries and its count of PRIVATE cells. -/
theorem slot_bindRange (m : SlotNo) :
    (bindRange s n v pairs).slot m =
      if m = n then { s.slot n with
        entries := ((bindRange s n v pairs).slot n).entries, privCount := (s.slot n).privCount + pairs.length }
      else s.slot m := by
  induction pairs generalizing s with
  | nil =>
    split
    · subst m; rfl
    · rfl
  | cons x pairs ih =>
    rw [bindRange_cons, ih]
    simp only [State.slot_bindPrivate, if_true, List.length_cons]
    split
    · simp only [Slot.mk.injEq, true_and, and_true]
      omega
    · rfl

theorem State.entry_bindPrivate {i : Nat} {c : CellNo} (m : SlotNo) (j : Nat) :
    (s.bindPrivate n i c v).entry m j =
      if m = n ∧ j = i ∧ i < (s.slot n).entries.length then some c else s.entry m j := by
  rw [State.bindPrivate, State.entry_setPrivCount, State.entry_setEntry]
  rfl

theorem State.length_entries_bindPrivate {i : Nat} {c : CellNo} :
    ((s.bindPrivate n i c v).slot n).entries.length = (s.slot n).entries.length := by
  simp [State.slot_bindPrivate]

theorem entry_bindRange_of_notMem {i : Nat} (hi : i ∉ pairs.map Prod.fst) :
    (bindRange s n v pairs).entry n i = s.entry n i := by
  induction pairs generalizing s with
  | nil => rfl
  | cons x pairs ih =>
    obtain ⟨hhead, htail⟩ := not_or.1 (mt List.mem_cons.2 hi)
    rw [bindRange_cons, ih htail, State.entry_bindPrivate, if_neg fun h => hhead h.2.1]

theorem entry_bindRange_of_mem {i : Nat} {c : CellNo} (hnodup : (pairs.map Prod.fst).Nodup)
    (hlength : i < (s.slot n).entries.length) (hx : (i, c) ∈ pairs) :
    (bindRange s n v pairs).entry n i = some c := by
  induction pairs generalizing s with
  | nil => cases hx
  | cons x pairs ih =>
    obtain ⟨hhead, htail⟩ := List.nodup_cons.1 hnodup
    rcases List.mem_cons.1 hx with rfl | hx
    · rw [bindRange_cons, entry_bindRange_of_notMem hhead, State.entry_bindPrivate, if_pos ⟨rfl, rfl, hlength⟩]
    · exact ih htail (by rwa [State.length_entries_bindPrivate]) hx

/-! ## The indices of a range and the cells they receive -/

variable {first count : Nat}

theorem map_fst_rangeCells (hcount : count ≤ s.freeList.length) :
    (rangeCells s first count).map Prod.fst = List.range' first count :=
  List.map_fst_zip (by simpa [State.indexRange] using hcount)

theorem map_snd_rangeCells : (rangeCells s first count).map Prod.snd = s.freeList.take count :=
  List.map_snd_zip (by simp [State.indexRange])

theorem length_rangeCells (hcount : count ≤ s.freeList.length) : (rangeCells s first count).length = count := by
  simp [rangeCells, State.indexRange, hcount]

theorem mem_rangeCells {k : Nat} {c : CellNo} (hk : k < count) (hc : s.freeList[k]? = some c) :
    (first + k, c) ∈ rangeCells s first count :=
  List.mem_of_getElem? (i := k) (by
    simp [rangeCells, State.indexRange, List.getElem?_zip_eq_some, hk, hc])

theorem rangeEdits_rangeCells (hcount : count ≤ s.freeList.length) :
    rangeEdits n v (rangeCells s first count) =
      ((s.freeList.take count).zipIdx first).flatMap fun x => [.cellValue x.1 v, .entry n x.2 (some x.1)] := by
  have hswap : rangeCells s first count = ((s.freeList.take count).zipIdx first).map Prod.swap := by
    rw [List.zipIdx_eq_zip_range', List.zip_swap, List.length_take, Nat.min_eq_left hcount]
    rfl
  rw [hswap, rangeEdits, List.flatMap_map]
  rfl

theorem length_rangeEdits (hcount : count ≤ s.freeList.length) :
    (rangeEdits n v (rangeCells s first count)).length = 2 * count := by
  simp [rangeEdits, List.length_flatMap, length_rangeCells hcount, Nat.mul_comm]

/-! ## The obligation -/

theorem exec_allocRange (p : Port) (s : State) : exec (.allocRange p) s = grant .allocRange answerAllocRange p s :=
  rfl

theorem boundAmong_range_eq_nil (h : ∀ k, k < count → s.entry n (first + k) = none) :
    s.boundAmong n (State.indexRange first count) = [] := by
  refine List.filter_eq_nil_iff.2 fun i hi => ?_
  obtain ⟨hle, hlt⟩ := List.mem_range'_1.1 hi
  have hentry := h (i - first) (by omega)
  rw [Nat.add_sub_cancel' hle] at hentry
  simp [hentry]

theorem answerAllocRange_checked {first count : Byte} (howns : ownsOpen s p n)
    (hcount : rangeCountOk count.toNat) (hrange : first.toNat + count.toNat ≤ (s.slot n).size.entries)
    (hunbound : ∀ k, k < count.toNat → s.entry n (first.toNat + k) = none)
    (hquota : (s.slot n).privCount + count.toNat ≤ (s.slot n).quota) (hcells : count.toNat ≤ s.freeList.length) :
    answerAllocRange p ([0x12, slotByte n, first, count] ++ colourOf v) s =
      staged ((bindRange s n v (rangeCells s first.toNat count.toNat)).raiseIfLow s.freeCount) p
        (rangeEdits n v (rangeCells s first.toNat count.toNat)) [] :=
  (withSlot_slotByte n _).trans <| (check_pos hcount).trans <| (ifOwned_of_ownsOpen howns).trans <|
    (ifRange_of_le hrange).trans <| (check_pos (boundAmong_range_eq_nil hunbound)).trans <|
    (check_pos hquota).trans (check_pos hcells)

/-- Settles O41: the range is bound index by index to the cells in the order of the free list. -/
theorem allocRangeBindsEveryIndex : Obligations.AllocRangeBindsEveryIndex := by
  intro p s n first count v htables hgrant howns hone hmax hrange hunbound hquota hcells hroom
  have hanswer := answerAllocRange_checked (v := v) howns ⟨hone, hmax⟩ hrange hunbound hquota hcells
  obtain ⟨t, hexec, hdelivers, hlow, happended⟩ := hgrant.delivers_staged_low rfl .bindRange hanswer
    (by rwa [length_rangeEdits hcells])
  have hlength := (htables.slots n).length_entries howns.1
  have hindices := map_fst_rangeCells (first := first.toNat) hcells
  have htaken := map_snd_rangeCells (s := s) (first := first.toNat) (count := count.toNat)
  refine ⟨t, (exec_allocRange p s).trans hexec, hdelivers.answered, hdelivers.frame, fun k c hk hc => ⟨?_, ?_⟩,
    fun c hc => ?_, fun i hi => ?_, ?_, hdelivers.tables.sharedIndex.trans sharedIndex_bindRange, ?_,
    hdelivers.config, hlow, ?_⟩
  · rw [hdelivers.cell]
    exact cell_bindRange_of_mem (htaken ▸ htables.cells.freeNodup.sublist (List.take_sublist ..))
      (mem_rangeCells hk hc)
  · rw [hdelivers.entry]
    exact entry_bindRange_of_mem (hindices ▸ List.nodup_range') (by omega) (mem_rangeCells hk hc)
  · rw [hdelivers.cell, cell_bindRange_of_notMem (htaken ▸ hc)]
  · rw [hdelivers.entry, entry_bindRange_of_notMem]
    rw [hindices, List.mem_range'_1]
    omega
  · rw [hdelivers.tables.freeList, freeList_bindRange, length_rangeCells hcells]
  · rw [hdelivers.slot]
    refine hdelivers.slotBecomes fun m => ?_
    rw [slot_bindRange, length_rangeCells hcells]
  · rw [← rangeEdits_rangeCells hcells]
    exact happended

end Sys2Proof.Machine
end

section
/-! PROOFS. LOAD_VALUES (spec/03, R56, R57). -/

namespace Sys2Proof.Machine

variable {s : State} {p : Port} {n : SlotNo}

/-! ## The PRIVATE cells of a run of entries (R56) -/

theorem State.ownedCell_of_priv {i j : Nat} {m : SlotNo} {c : CellNo} {v : Colour} (hentry : s.entry n i = some c)
    (hcell : s.cell c = .priv v m j) : s.ownedCell n i = .ok c := by
  simp [State.ownedCell, hentry, hcell]

theorem State.ownedCells_of_owned {first : Nat} {cs : List CellNo}
    (h : ∀ k c, cs[k]? = some c → s.ownedCell n (first + k) = .ok c) :
    s.ownedCells n (State.indexRange first cs.length) = .ok cs := by
  induction cs generalizing first with
  | nil => rfl
  | cons c cs ih =>
    have hhead : s.ownedCell n first = .ok c := h 0 c rfl
    have htail : s.ownedCells n (List.range' (first + 1) cs.length) = .ok cs := ih fun k d hd => by
      rw [Nat.add_assoc, Nat.add_comm 1 k]
      exact h (k + 1) d hd
    rw [State.indexRange, List.length_cons, List.range'_succ, State.ownedCells, hhead, htail]

/-- Cells that distinct entries of a run own are distinct: a PRIVATE cell has one owner (R5). -/
theorem nodup_of_owned {first : Nat} {cs : List CellNo}
    (h : ∀ k c, cs[k]? = some c → ∃ old, s.cell c = .priv old n (first + k)) : cs.Nodup := by
  refine List.nodup_iff_getElem?_ne_getElem?.2 fun j k hjk hk heq => ?_
  obtain ⟨v, hv⟩ := h k _ (List.getElem?_eq_getElem hk)
  obtain ⟨w, hw⟩ := h j _ (heq.trans (List.getElem?_eq_getElem hk))
  rw [hv] at hw
  injection hw
  omega

/-! ## The colours of the command (R175) -/

theorem colourAt_append (header rest : List Byte) (v : Colour) :
    colourAt (header ++ (colourOf v ++ rest)) (header.length + 1) = v := by
  simp [colourAt, byteAt, colourOf]

theorem colours_of_flatMap (header : List Byte) (vs : List Colour) :
    (List.range vs.length).map (fun k => colourAt (header ++ vs.flatMap colourOf) (header.length + 1 + 3 * k)) =
      vs := by
  induction vs generalizing header with
  | nil => rfl
  | cons v vs ih =>
    have htail := ih (header ++ colourOf v)
    rw [List.length_cons, List.range_succ_eq_map, List.map_cons, List.map_map, List.flatMap_cons,
      Nat.mul_zero, Nat.add_zero, colourAt_append]
    refine congrArg (v :: ·) (Eq.trans (List.map_congr_left fun k _ => ?_) htail)
    rw [Function.comp_apply, List.append_assoc]
    congr 1
    simp [colourOf]
    omega

theorem loadColours_flatMap (header : List Byte) (hheader : header.length = 4) (vs : List Colour) :
    loadColours (header ++ vs.flatMap colourOf) vs.length = vs := by
  have h := colours_of_flatMap header vs
  rwa [hheader] at h

/-! ## What giving values to cells changes (R12, R57) -/

variable {pairs : List (CellNo × Colour)}

theorem State.cell_setPrivValue_of_ne {c d : CellNo} {v : Colour} (h : d ≠ c) :
    (s.setPrivValue c v).cell d = s.cell d := by
  unfold State.setPrivValue
  split
  · exact s.cell_setCell_ne _ h
  · rfl

theorem State.cell_setPrivValue_of_priv {c : CellNo} {v old : Colour} {m : SlotNo} {i : Nat}
    (h : s.cell c = .priv old m i) : (s.setPrivValue c v).cell c = .priv v m i := by
  simp [State.setPrivValue, h]

theorem TablesOnly.setPrivValue {c : CellNo} {v : Colour} : TablesOnly s (s.setPrivValue c v) := by
  unfold State.setPrivValue
  split <;> rfl

theorem loadAll_cons (x : CellNo × Colour) : loadAll s (x :: pairs) = loadAll (s.setPrivValue x.1 x.2) pairs := rfl

theorem TablesOnly.loadAll : TablesOnly s (loadAll s pairs) := by
  induction pairs generalizing s with
  | nil => exact .refl s
  | cons x pairs ih => exact TablesOnly.setPrivValue.trans ih

theorem freeList_loadAll : (loadAll s pairs).freeList = s.freeList := by
  induction pairs generalizing s with
  | nil => rfl
  | cons x pairs ih => rw [loadAll_cons, ih, State.setPrivValue_freeList]

theorem sharedIndex_loadAll : (loadAll s pairs).sharedIndex = s.sharedIndex := by
  induction pairs generalizing s with
  | nil => rfl
  | cons x pairs ih => rw [loadAll_cons, ih, State.setPrivValue_sharedIndex]

theorem slots_loadAll : (loadAll s pairs).slots = s.slots := by
  induction pairs generalizing s with
  | nil => rfl
  | cons x pairs ih => rw [loadAll_cons, ih, State.setPrivValue_slots]

theorem cell_loadAll_of_notMem {c : CellNo} (hc : c ∉ pairs.map Prod.fst) :
    (loadAll s pairs).cell c = s.cell c := by
  induction pairs generalizing s with
  | nil => rfl
  | cons x pairs ih =>
    obtain ⟨hhead, htail⟩ := not_or.1 (mt List.mem_cons.2 hc)
    rw [loadAll_cons, ih htail, State.cell_setPrivValue_of_ne hhead]

theorem cell_loadAll_of_mem {c : CellNo} {v old : Colour} {m : SlotNo} {i : Nat}
    (hnodup : (pairs.map Prod.fst).Nodup) (hx : (c, v) ∈ pairs) (hc : s.cell c = .priv old m i) :
    (loadAll s pairs).cell c = .priv v m i := by
  induction pairs generalizing s with
  | nil => cases hx
  | cons x pairs ih =>
    obtain ⟨hhead, htail⟩ := List.nodup_cons.1 hnodup
    rcases List.mem_cons.1 hx with rfl | hx
    · rw [loadAll_cons, cell_loadAll_of_notMem hhead, State.cell_setPrivValue_of_priv hc]
    · have hne : c ≠ x.1 := fun heq => hhead (heq ▸ List.mem_map_of_mem hx)
      exact ih htail hx (by rwa [State.cell_setPrivValue_of_ne hne])

theorem loadEdits_zip (cs : List CellNo) (vs : List Colour) :
    loadEdits (cs.zip vs) = List.zipWith .cellValue cs vs := by
  rw [loadEdits, List.map_zip_eq_zipWith]
  rfl

/-! ## The obligation -/

theorem exec_loadValues (p : Port) (s : State) : exec (.loadValues p) s = grant .loadValues answerLoadValues p s :=
  rfl

theorem answerLoadValues_checked {cmd : List Byte} {vs : List Colour} {cs : List CellNo}
    (hslot : byteAt cmd 2 = slotByte n) (hcount : countArg cmd = vs.length)
    (hcolours : loadColours cmd vs.length = vs) (howns : ownsOpen s p n) (hlength : cs.length = vs.length)
    (hrange : indexArg cmd + vs.length ≤ (s.slot n).size.entries)
    (howned : ∀ k c, cs[k]? = some c → s.ownedCell n (indexArg cmd + k) = .ok c) :
    answerLoadValues p cmd s = staged (loadAll s (cs.zip vs)) p (List.zipWith .cellValue cs vs) [] := by
  rw [answerLoadValues, hslot, withSlot_slotByte, ifOwned_of_ownsOpen howns, hcount, ifRange_of_le hrange,
    ← hlength, State.ownedCells_of_owned howned, hlength, hcolours, ← loadEdits_zip]

/-- Settles O43: each cell of the run takes its colour and keeps its owner, and one batch says so. -/
theorem loadValuesSetsRunOfValues : Obligations.LoadValuesSetsRunOfValues := by
  intro p s n first vs cs hgrant howns _ hmax hlength hrange hrun hroom
  have howned (k : Nat) (c : CellNo) (hc : cs[k]? = some c) : s.ownedCell n (first.toNat + k) = .ok c := by
    obtain ⟨hentry, old, hcell⟩ := hrun k c hc
    exact State.ownedCell_of_priv hentry hcell
  have hanswer := answerLoadValues_checked (p := p) rfl (Nat.mod_eq_of_lt (by omega))
    (loadColours_flatMap [0x14, slotByte n, first, BitVec.ofNat 8 vs.length] rfl vs) howns hlength hrange howned
  obtain ⟨t, hexec, hdelivers, hnotices, happended⟩ := hgrant.delivers_staged rfl .loadAll hanswer
    (by rwa [List.length_zipWith, hlength, Nat.min_self])
  have hcells : (cs.zip vs).map Prod.fst = cs := List.map_fst_zip hlength.le
  have hnodup : cs.Nodup := nodup_of_owned fun k c hc => (hrun k c hc).2
  refine ⟨t, (exec_loadValues p s).trans hexec, hdelivers.answered, hdelivers.frame, fun k c v hc hv => ?_,
    fun c hc => ?_, hdelivers.tables.freeList.trans freeList_loadAll,
    hdelivers.tables.sharedIndex.trans sharedIndex_loadAll, hdelivers.slots.trans slots_loadAll, hdelivers.config,
    hnotices, happended⟩
  · obtain ⟨-, old, hcell⟩ := hrun k c hc
    have hpair : (c, v) ∈ cs.zip vs :=
      List.mem_of_getElem? (List.getElem?_zip_eq_some.2 ⟨hc, hv⟩)
    rw [hdelivers.cell, cell_loadAll_of_mem (hcells.symm ▸ hnodup) hpair hcell]
  · rw [hdelivers.cell, cell_loadAll_of_notMem (hcells.symm ▸ hc)]

end Sys2Proof.Machine
end

section
/-! PROOFS. FREEZE (spec/03, R64 to R66). -/

namespace Sys2Proof.Machine

variable {s : State} {p : Port} {n : SlotNo} {i : Nat} {c x : CellNo} {v : Colour}

/-! ## What a merge changes (R11, R65) -/

theorem TablesOnly.mergeInto : TablesOnly s (mergeInto s n i c x v) := rfl

theorem cell_mergeInto (d : CellNo) :
    (mergeInto s n i c x v).cell d =
      if d = c then .free else if d = x then .shared v (s.holders x + 1) else s.cell d := by
  rw [← s.cell_setCell x d]
  exact State.cell_setCell _ c d _

theorem slot_mergeInto (m : SlotNo) :
    (mergeInto s n i c x v).slot m =
      if m = n then { s.slot n with
        entries := (s.slot n).entries.set i (some x), privCount := (s.slot n).privCount - 1,
        sharedCount := (s.slot n).sharedCount + 1 }
      else s.slot m := by
  simp only [mergeInto, Slot.frozen, State.slot_setSlot, State.freeCell_slot, State.slot_setEntry,
    State.setCell_slot, if_true]
  by_cases hm : m = n <;> simp [hm]

/-! ## What a freeze in place changes (R10, R66) -/

theorem TablesOnly.freezeInPlace : TablesOnly s (freezeInPlace s n c v) := rfl

theorem cell_freezeInPlace (d : CellNo) :
    (freezeInPlace s n c v).cell d = if d = c then .shared v 1 else s.cell d :=
  s.cell_setCell c d _

theorem mem_sharedIndex_freezeInPlace (y : Colour × CellNo) :
    y ∈ (freezeInPlace s n c v).sharedIndex ↔ y = (v, c) ∨ y ∈ s.sharedIndex :=
  mem_indexInsert v c s.sharedIndex y

theorem slot_freezeInPlace (m : SlotNo) :
    (freezeInPlace s n c v).slot m = if m = n then (s.slot n).frozen else s.slot m :=
  State.slot_setSlot _ n m _

/-! ## The obligations -/

theorem exec_freeze (p : Port) (s : State) : exec (.freeze p) s = grant .freeze answerFreeze p s := rfl

theorem State.workingValue_of_priv {m : SlotNo} (hc : s.cell c = .priv v m i) : s.workingValue c = v := by
  simp [State.workingValue, hc]

section
variable {i : Byte} (howns : ownsOpen s p n) (hi : i.toNat < (s.slot n).size.entries)
  (hentry : s.entry n i.toNat = some c) (hcell : s.cell c = .priv v n i.toNat)
include howns hi hentry hcell

theorem answerFreeze_held {k : Nat} (hlookup : s.lookup v = some x) (hx : s.cell x = .shared v k) (hk : k < 255) :
    answerFreeze p [0x17, slotByte n, i] s =
      staged (mergeInto s n i.toNat c x v) p [.entry n i.toNat (some x)] (twoBytes x ++ flagByte true) := by
  refine (withSlot_slotByte n _).trans <| (ifOwned_of_ownsOpen howns).trans <| (ifIndex_of_lt hi).trans ?_
  rw [show indexArg [0x17, slotByte n, i] = i.toNat from rfl, State.ownedCell_of_priv hentry hcell]
  dsimp only
  rw [State.workingValue_of_priv hcell, hlookup]
  exact check_pos (by rwa [State.holders_of_shared hx])

theorem answerFreeze_notHeld (hlookup : s.lookup v = none) :
    answerFreeze p [0x17, slotByte n, i] s =
      .accepted (freezeInPlace s n c v) (twoBytes c ++ flagByte false) := by
  refine (withSlot_slotByte n _).trans <| (ifOwned_of_ownsOpen howns).trans <| (ifIndex_of_lt hi).trans ?_
  rw [show indexArg [0x17, slotByte n, i] = i.toNat from rfl, State.ownedCell_of_priv hentry hcell]
  dsimp only
  rw [State.workingValue_of_priv hcell, hlookup]

end

/-- Settles O46: the lookup finds the SHARED cell, and the entry is merged into it. -/
theorem freezeMergesIntoSharedCell : Obligations.FreezeMergesIntoSharedCell := by
  intro p s n i v c x h htables hgrant howns hi hentry hcell hx hh hroom
  have hlookup := htables.cells.lookup_eq_some hx
  have hne : x ≠ c := fun heq => by cases (heq ▸ hx).symm.trans hcell
  obtain ⟨t, hexec, hdelivers, hnotices, happended⟩ := hgrant.delivers_staged rfl .mergeInto
    (answerFreeze_held howns hi hentry hcell hlookup hx hh) hroom
  refine ⟨t, (exec_freeze p s).trans hexec, hdelivers.answered, hdelivers.frame, ?_, ?_, fun d hdc hdx => ?_,
    hdelivers.tables.freeList, hdelivers.tables.sharedIndex, hdelivers.slotBecomes slot_mergeInto,
    hdelivers.config, hnotices, happended⟩
  · rw [hdelivers.cell, cell_mergeInto, if_neg hne, if_pos rfl, State.holders_of_shared hx]
  · rw [hdelivers.cell, cell_mergeInto, if_pos rfl]
  · rw [hdelivers.cell, cell_mergeInto, if_neg hdc, if_neg hdx]

/-- Settles O47: the lookup finds nothing, and the cell turns SHARED where it is; no batch is asked for. -/
theorem freezeTurnsCellSharedInPlace : Obligations.FreezeTurnsCellSharedInPlace := by
  intro p s n i v c htables hgrant howns hi hentry hcell hnone
  have hlookup := htables.cells.lookup_eq_none hnone
  obtain ⟨t, hexec, hdelivers, hnotices, hqueue⟩ := hgrant.delivers_accepted rfl .freezeInPlace
    (answerFreeze_notHeld howns hi hentry hcell hlookup)
  refine ⟨t, (exec_freeze p s).trans hexec, hdelivers.answered, hdelivers.frame, ?_, fun d hd => ?_,
    hdelivers.tables.freeList, fun y => ?_, hdelivers.slotBecomes slot_freezeInPlace, hdelivers.config, hnotices,
    hqueue⟩
  · rw [hdelivers.cell, cell_freezeInPlace, if_pos rfl]
  · rw [hdelivers.cell, cell_freezeInPlace, if_neg hd]
  · rw [hdelivers.tables.sharedIndex, mem_sharedIndex_freezeInPlace]

end Sys2Proof.Machine
end

section
/-! PROOFS. How the entries of a slot count (R4, R5, R25): what the invariant of the working tables says of
some listed entries of it. -/

namespace Sys2Proof.Machine

variable {s : State} {n m : SlotNo} {i j : Nat} {c : CellNo} {is : List Nat}

theorem State.entries_eq_map (s : State) (n : SlotNo) :
    (s.slot n).entries = (List.range (s.slot n).entries.length).map (s.entry n) := by
  refine List.ext_getElem (by simp) fun i h _ => ?_
  simp [State.entry, h]

/-- Distinct listed entries that satisfy a property of bound entries are among those of the whole list. -/
theorem countP_entry_le {q : Option CellNo → Bool} (hq : q none = false) (hnodup : is.Nodup) :
    is.countP (fun i => q (s.entry n i)) ≤ (s.slot n).entries.countP q := by
  rw [s.entries_eq_map n, List.countP_map, List.countP_eq_length_filter, List.countP_eq_length_filter]
  refine (List.subperm_of_subset (hnodup.filter _) fun i hi => ?_).length_le
  obtain ⟨-, hqi⟩ := List.mem_filter.1 hi
  refine List.mem_filter.2 ⟨List.mem_range.2 ?_, hqi⟩
  cases hentry : s.entry n i with
  | none => simp [hentry, hq] at hqi
  | some c => exact s.entry_lt hentry

theorem bindingsIn_le_count (hnodup : is.Nodup) : bindingsIn s n is c ≤ (s.slot n).entries.count (some c) := by
  simpa only [bindingsIn, List.count, beq_eq_decide] using countP_entry_le (q := (· == some c)) rfl hnodup

theorem boundCount_eq_sum (s : State) (c : CellNo) : boundCount s c = ∑ n, (s.slot n).entries.count (some c) :=
  (Fin.sum_univ_def _).symm

theorem bindingsIn_le_boundCount (hnodup : is.Nodup) : bindingsIn s n is c ≤ boundCount s c := by
  rw [boundCount_eq_sum]
  exact (bindingsIn_le_count hnodup).trans (Finset.single_le_sum
    (f := fun k => (s.slot k).entries.count (some c)) (fun _ _ => Nat.zero_le _) (Finset.mem_univ n))

theorem bindingsIn_singleton : bindingsIn s n [i] c = if s.entry n i = some c then 1 else 0 := by
  simp [bindingsIn, List.countP_singleton]

theorem bindingsIn_snoc :
    bindingsIn s n (is ++ [i]) c = bindingsIn s n is c + if s.entry n i = some c then 1 else 0 := by
  rw [bindingsIn, List.countP_append, ← bindingsIn_singleton]
  rfl

/-- Two different entries bound to a cell count twice, in one slot or in two. -/
theorem two_le_boundCount (hi : s.entry n i = some c) (hj : s.entry m j = some c) (hne : ¬ (n = m ∧ i = j)) :
    2 ≤ boundCount s c := by
  by_cases hnm : n = m
  · subst hnm
    have hij : i ≠ j := fun h => hne ⟨rfl, h⟩
    have htwo : bindingsIn s n [i, j] c = 2 := by simp [bindingsIn, hi, hj]
    exact htwo ▸ bindingsIn_le_boundCount (by simpa using hij)
  · have hn : 1 ≤ (s.slot n).entries.count (some c) := by
      simpa [bindingsIn_singleton, hi] using bindingsIn_le_count (s := s) (n := n) (c := c) (List.nodup_singleton i)
    have hm : 1 ≤ (s.slot m).entries.count (some c) := by
      simpa [bindingsIn_singleton, hj] using bindingsIn_le_count (s := s) (n := m) (c := c) (List.nodup_singleton j)
    calc 2 ≤ ∑ k ∈ {n, m}, (s.slot k).entries.count (some c) := by rw [Finset.sum_pair hnm]; omega
      _ ≤ boundCount s c := by
        rw [boundCount_eq_sum]
        exact Finset.sum_le_sum_of_subset (Finset.subset_univ _)

/-- A PRIVATE cell is bound to its owner and to no other entry (R5). -/
theorem CellsOk.entry_eq_iff_owner (h : CellsOk s) {v : Colour} (hc : s.cell c = .priv v m j) :
    s.entry n i = some c ↔ n = m ∧ i = j := by
  obtain ⟨-, howner, hone⟩ := h.of_priv hc
  constructor
  · intro hentry
    by_contra hne
    have := two_le_boundCount hentry howner hne
    omega
  · rintro ⟨rfl, rfl⟩
    exact howner

/-- The bindings among distinct entries of a slot are among the holders of a SHARED cell (R4). -/
theorem CellsOk.bindingsIn_le_holders (h : CellsOk s) {v : Colour} {k : Nat} (hc : s.cell c = .shared v k)
    (hnodup : is.Nodup) : bindingsIn s n is c ≤ k := by
  obtain ⟨-, -, hholders, -⟩ := h.of_shared hc
  exact hholders ▸ bindingsIn_le_boundCount hnodup

theorem CellsOk.one_le_holders (h : CellsOk s) {v : Colour} {k : Nat} (hc : s.cell c = .shared v k) : 1 ≤ k := by
  obtain ⟨-, -, -, hone, -⟩ := h.of_shared hc
  exact hone

/-- No entry is bound to a FREE cell (R3). -/
theorem CellsOk.cell_ne_free (h : CellsOk s) (hentry : s.entry n i = some c) : s.cell c ≠ .free := by
  intro hc
  obtain ⟨-, hzero⟩ := h.of_free hc
  have hle := bindingsIn_le_boundCount (s := s) (n := n) (c := c) (List.nodup_singleton i)
  rw [bindingsIn_singleton, if_pos hentry] at hle
  omega

/-- An entry is UNBOUND, owns a PRIVATE cell, or holds a SHARED cell. -/
theorem CellsOk.entry_cases (h : CellsOk s) (n : SlotNo) (i : Nat) :
    s.entry n i = none ∨ (∃ c v, s.entry n i = some c ∧ s.cell c = .priv v n i) ∨
      ∃ c v k, s.entry n i = some c ∧ s.cell c = .shared v k := by
  cases hentry : s.entry n i with
  | none => exact .inl rfl
  | some c =>
    refine .inr ?_
    cases hcell : s.cell c with
    | free => exact absurd hcell (h.cell_ne_free hentry)
    | shared v k => exact .inr ⟨c, v, k, rfl, hcell⟩
    | priv v m j =>
      obtain ⟨rfl, rfl⟩ := (h.entry_eq_iff_owner hcell).1 hentry
      exact .inl ⟨c, v, rfl, hcell⟩

end Sys2Proof.Machine
end

section
/-! PROOFS. The release of the entries of a slot, one and many (R7 to R9, R14, R60). -/

namespace Sys2Proof.Machine

variable {s u : State} {n m : SlotNo} {i : Nat} {c d : CellNo} {v : Colour} {k : Nat} {is : List Nat}

/-! ## What releasing one entry changes -/

theorem TablesOnly.dropHolder : TablesOnly s (s.dropHolder c v k) := by
  unfold State.dropHolder
  split <;> rfl

theorem TablesOnly.releaseEntry : TablesOnly s (s.releaseEntry n i) := by
  have hentry : TablesOnly s (s.setEntry n i none) := rfl
  unfold State.releaseEntry
  split
  · rfl
  · dsimp only
    split
    · rfl
    · rfl
    · exact (hentry.trans .dropHolder).trans rfl

/-- A slot of which entries are released keeps all but its entries and its counts, and the other slots are
kept. -/
structure SlotKept (s t : State) (n : SlotNo) : Prop where
  slot : t.slot n = { s.slot n with
    entries := (t.slot n).entries, privCount := (t.slot n).privCount, sharedCount := (t.slot n).sharedCount }
  length : (t.slot n).entries.length = (s.slot n).entries.length
  others : ∀ m, m ≠ n → t.slot m = s.slot m

theorem SlotKept.refl (s : State) (n : SlotNo) : SlotKept s s n := ⟨rfl, rfl, fun _ _ => rfl⟩

theorem SlotKept.trans {t : State} (h : SlotKept s t n) (h' : SlotKept t u n) : SlotKept s u n where
  slot := by rw [h'.slot, h.slot]
  length := h'.length.trans h.length
  others m hm := (h'.others m hm).trans (h.others m hm)

theorem SlotKept.setEntry (e : Option CellNo) : SlotKept s (s.setEntry n i e) n where
  slot := by rw [State.slot_setEntry, if_pos rfl]
  length := by rw [State.slot_setEntry, if_pos rfl, List.length_set]
  others m hm := by rw [State.slot_setEntry, if_neg hm]

theorem SlotKept.setPrivCount : SlotKept s (s.setPrivCount n k) n where
  slot := by rw [State.slot_setPrivCount, if_pos rfl]
  length := by rw [State.slot_setPrivCount, if_pos rfl]
  others m hm := by rw [State.slot_setPrivCount, if_neg hm]

theorem SlotKept.setSharedCount : SlotKept s (s.setSharedCount n k) n where
  slot := by rw [State.slot_setSharedCount, if_pos rfl]
  length := by rw [State.slot_setSharedCount, if_pos rfl]
  others m hm := by rw [State.slot_setSharedCount, if_neg hm]

theorem SlotKept.of_slots {t : State} (h : t.slots = s.slots) : SlotKept s t n := by
  have hslot (m : SlotNo) : t.slot m = s.slot m := by rw [State.slot, h, State.slot]
  exact ⟨by rw [hslot], by rw [hslot], fun m _ => hslot m⟩

theorem SlotKept.releaseEntry : SlotKept s (s.releaseEntry n i) n := by
  unfold State.releaseEntry
  split
  · exact .refl s n
  · dsimp only
    split
    · exact .setEntry none
    · exact ((SlotKept.setEntry none).trans (.of_slots (State.freeCell_slots ..))).trans .setPrivCount
    · exact ((SlotKept.setEntry none).trans (.of_slots (State.dropHolder_slots ..))).trans .setSharedCount

theorem State.entry_dropHolder (j : Nat) : (s.dropHolder c v k).entry n j = s.entry n j := by
  simp [State.entry]

theorem State.entry_setEntry_none (j : Nat) (hi : s.entry n i = some c) :
    (s.setEntry n i none).entry n j = if j = i then none else s.entry n j := by
  simp [State.entry_setEntry, s.entry_lt hi]

theorem State.entry_releaseEntry (j : Nat) :
    (s.releaseEntry n i).entry n j = if j = i then none else s.entry n j := by
  unfold State.releaseEntry
  split
  case h_1 hnone =>
    split
    · rw [‹j = i›, hnone]
    · rfl
  case h_2 c hc =>
    rw [← State.entry_setEntry_none j hc]
    split
    · rfl
    · exact State.entry_setPrivCount ..
    · exact (State.entry_setSharedCount ..).trans (State.entry_dropHolder j)

/-! ### The cells, the free list and the counts, by the kind of the cell -/

theorem State.cell_releaseEntry_priv {j : Nat} (hi : s.entry n i = some c) (hc : s.cell c = .priv v m j) :
    (s.releaseEntry n i).cell d = if d = c then .free else s.cell d := by
  rw [State.releaseEntry_priv hi hc]
  exact State.cell_setCell _ c d _

theorem State.freeList_releaseEntry_priv {j : Nat} (hi : s.entry n i = some c) (hc : s.cell c = .priv v m j) :
    (s.releaseEntry n i).freeList = s.freeList ++ [c] := by
  rw [State.releaseEntry_priv hi hc]
  rfl

theorem State.sharedIndex_releaseEntry_priv {j : Nat} (hi : s.entry n i = some c) (hc : s.cell c = .priv v m j) :
    (s.releaseEntry n i).sharedIndex = s.sharedIndex := by
  rw [State.releaseEntry_priv hi hc]
  rfl

theorem State.counts_releaseEntry_priv {j : Nat} (hi : s.entry n i = some c) (hc : s.cell c = .priv v m j) :
    ((s.releaseEntry n i).slot n).privCount = (s.slot n).privCount - 1 ∧
      ((s.releaseEntry n i).slot n).sharedCount = (s.slot n).sharedCount := by
  rw [State.releaseEntry_priv hi hc]
  simp [State.slot_setPrivCount, State.slot_setEntry]

theorem State.cell_dropHolder :
    (s.dropHolder c v k).cell d = if d = c then (if k ≤ 1 then .free else .shared v (k - 1)) else s.cell d := by
  unfold State.dropHolder
  split
  · exact s.cell_setCell c d _
  · exact s.cell_setCell c d _

theorem State.freeList_dropHolder :
    (s.dropHolder c v k).freeList = if k ≤ 1 then s.freeList ++ [c] else s.freeList := by
  unfold State.dropHolder
  split <;> rfl

theorem State.sharedIndex_dropHolder :
    (s.dropHolder c v k).sharedIndex =
      if k ≤ 1 then s.sharedIndex.filter (fun x => x.2 ≠ c) else s.sharedIndex := by
  unfold State.dropHolder
  split <;> rfl

theorem State.cell_releaseEntry_shared (hi : s.entry n i = some c) (hc : s.cell c = .shared v k) :
    (s.releaseEntry n i).cell d =
      if d = c then (if k ≤ 1 then .free else .shared v (k - 1)) else s.cell d := by
  rw [State.releaseEntry_shared hi hc]
  exact State.cell_dropHolder

theorem State.freeList_releaseEntry_shared (hi : s.entry n i = some c) (hc : s.cell c = .shared v k) :
    (s.releaseEntry n i).freeList = if k ≤ 1 then s.freeList ++ [c] else s.freeList := by
  rw [State.releaseEntry_shared hi hc]
  exact State.freeList_dropHolder

theorem State.sharedIndex_releaseEntry_shared (hi : s.entry n i = some c) (hc : s.cell c = .shared v k) :
    (s.releaseEntry n i).sharedIndex =
      if k ≤ 1 then s.sharedIndex.filter (fun x => x.2 ≠ c) else s.sharedIndex := by
  rw [State.releaseEntry_shared hi hc]
  exact State.sharedIndex_dropHolder

theorem State.counts_releaseEntry_shared (hi : s.entry n i = some c) (hc : s.cell c = .shared v k) :
    ((s.releaseEntry n i).slot n).privCount = (s.slot n).privCount ∧
      ((s.releaseEntry n i).slot n).sharedCount = (s.slot n).sharedCount - 1 := by
  rw [State.releaseEntry_shared hi hc]
  simp [State.slot_setSharedCount, State.slot_setEntry]

/-! ## Releasing one more entry, in the terms of the statements

`is` has been released, and the entry `i`, which comes after all of them, is released next. -/

theorem lt_of_sorted_snoc (hsorted : (is ++ [i]).Pairwise (· < ·)) {j : Nat} (hj : j ∈ is) : j < i := by
  obtain ⟨-, -, hlt⟩ := List.pairwise_append.1 hsorted
  exact hlt j hj i (List.mem_singleton_self i)

theorem notMem_of_sorted_snoc (hsorted : (is ++ [i]).Pairwise (· < ·)) : i ∉ is := fun hi =>
  lt_irrefl i (lt_of_sorted_snoc hsorted hi)

theorem afterRelease_of_owner (hi : i ∉ is) (hc : s.cell c = .priv v n i) :
    afterRelease s n is c = .priv v n i := by
  simp [afterRelease, hc, hi]

theorem afterRelease_of_shared (hc : s.cell c = .shared v k) :
    afterRelease s n is c =
      if k = bindingsIn s n is c then .free else .shared v (k - bindingsIn s n is c) := by
  simp [afterRelease, hc]

/-- The release of an entry leaves the cells alone that it is not bound to. -/
theorem CellsOk.afterRelease_snoc_of_ne (h : CellsOk s) (hne : s.entry n i ≠ some d) :
    afterRelease s n (is ++ [i]) d = afterRelease s n is d := by
  cases hd : s.cell d with
  | free => simp [afterRelease, hd]
  | shared v k => simp [afterRelease, hd, bindingsIn_snoc, hne]
  | priv v m j =>
    have howner : ¬ (n = m ∧ i = j) := mt (h.entry_eq_iff_owner hd).2 hne
    have : m = n ∧ j ∈ is ++ [i] ↔ m = n ∧ j ∈ is := by
      simp only [List.mem_append, List.mem_singleton, and_congr_right_iff, or_iff_left_iff_imp]
      rintro rfl rfl
      exact absurd ⟨rfl, rfl⟩ howner
    simp only [afterRelease, hd, this]

/-- While a later entry is bound to a SHARED cell, the release of the earlier ones leaves it a holder. -/
theorem CellsOk.bindingsIn_lt_holders (h : CellsOk s) (hnodup : (is ++ [i]).Nodup) (hi : s.entry n i = some c)
    (hc : s.cell c = .shared v k) : bindingsIn s n is c < k := by
  have hle := h.bindingsIn_le_holders hc hnodup (n := n)
  rw [bindingsIn_snoc, if_pos hi] at hle
  omega

/-- What an earlier entry frees is the same with a later entry listed: where the later one is bound to the
cell too, the earlier one frees nothing. -/
theorem CellsOk.freedAt_snoc (h : CellsOk s) (hnodup : (is ++ [i]).Nodup) {j : Nat} (hj : j < i) :
    freedAt s n (is ++ [i]) j = freedAt s n is j := by
  unfold freedAt
  cases hentry : s.entry n j with
  | none => rfl
  | some c =>
    cases hc : s.cell c with
    | free => simp only [hc]
    | priv v m l => simp only [hc]
    | shared v k =>
      simp only [hc]
      by_cases hi : s.entry n i = some c
      · have hlt := h.bindingsIn_lt_holders hnodup hi hc
        rw [if_neg fun hfreed => hfreed.2 i (by simp) hj hi, if_neg fun hfreed => hlt.ne' hfreed.1]
      · simp [bindingsIn_snoc, hi, or_imp, forall_and]

theorem CellsOk.freedInOrder_snoc (h : CellsOk s) (hsorted : (is ++ [i]).Pairwise (· < ·)) :
    freedInOrder s n (is ++ [i]) = freedInOrder s n is ++ (freedAt s n (is ++ [i]) i).toList := by
  have hkept : is.filterMap (freedAt s n (is ++ [i])) = is.filterMap (freedAt s n is) :=
    List.filterMap_congr fun j hj => h.freedAt_snoc hsorted.nodup (lt_of_sorted_snoc hsorted hj)
  rw [freedInOrder, List.filterMap_append, hkept]
  cases hi : freedAt s n (is ++ [i]) i <;> simp [freedInOrder, hi]

theorem freedAt_of_unbound (hi : s.entry n i = none) : freedAt s n is i = none := by
  simp [freedAt, hi]

theorem freedAt_of_priv {j : Nat} (hi : s.entry n i = some c) (hc : s.cell c = .priv v m j) :
    freedAt s n is i = some c := by
  simp [freedAt, hi, hc]

theorem freedAt_snoc_of_shared (hsorted : (is ++ [i]).Pairwise (· < ·)) (hi : s.entry n i = some c)
    (hc : s.cell c = .shared v k) :
    freedAt s n (is ++ [i]) i = if k = bindingsIn s n is c + 1 then some c else none := by
  have hlast : ∀ j ∈ is ++ [i], i < j → s.entry n j ≠ some c := by
    intro j hj hij
    rcases List.mem_append.1 hj with hj | hj
    · have := lt_of_sorted_snoc hsorted hj
      omega
    · have := List.mem_singleton.1 hj
      omega
  simp only [freedAt, hi, hc, bindingsIn_snoc, if_true, and_iff_left hlast]

end Sys2Proof.Machine
end

section
/-! PROOFS. The release walk meets its description (R14, R60), and RELEASE and RELEASE_RANGE (spec/03, R59 to
R63). -/

namespace Sys2Proof.Machine

variable {s u t : State} {p : Port} {n : SlotNo} {i : Nat} {c : CellNo} {v : Colour} {k : Nat} {is : List Nat}

/-! ## One step of the walk

The entries `is` of `s` have been released in `u`; the entry `i` comes after all of them. -/

/-- The working tables of a state in which listed entries are released are all that is spoken of. -/
theorem EntriesReleased.of_tables (h : EntriesReleased s u n is) (htables : SameCells u t)
    (hslots : t.slots = u.slots) :
    EntriesReleased s t n is := by
  have hcell (c : CellNo) : t.cell c = u.cell c := by rw [State.cell, htables.cells, State.cell]
  have hslot (m : SlotNo) : t.slot m = u.slot m := by rw [State.slot, hslots, State.slot]
  have hshared : isShared t = isShared u := funext fun c => by rw [isShared, hcell, isShared]
  have hentry (i : Nat) : t.entry n i = u.entry n i := by rw [State.entry, hslot, State.entry]
  exact {
    cells := fun c => (hcell c).trans (h.cells c)
    freeList := htables.freeList.trans h.freeList
    sharedIndex := by rw [htables.sharedIndex, h.sharedIndex, hshared]
    entries := fun i => (hentry i).trans (h.entries i)
    length := by rw [hslot, h.length]
    privCount := by rw [hslot, h.privCount]
    sharedCount := by rw [hslot, h.sharedCount]
    others := fun m hm => (hslot m).trans (h.others m hm) }

/-- The entries are as they should be whatever the cell of the entry released; the rest is by its kind. -/
theorem EntriesReleased.snoc (h : EntriesReleased s u n is)
    (cells : ∀ d, (u.releaseEntry n i).cell d = afterRelease s n (is ++ [i]) d)
    (freeList : (u.releaseEntry n i).freeList = s.freeList ++ freedInOrder s n (is ++ [i]))
    (sharedIndex : (u.releaseEntry n i).sharedIndex =
      s.sharedIndex.filter fun x => isShared (u.releaseEntry n i) x.2)
    (privCount : ((u.releaseEntry n i).slot n).privCount +
      (is ++ [i]).countP (fun i => (s.entry n i).any (isPriv s)) = (s.slot n).privCount)
    (sharedCount : ((u.releaseEntry n i).slot n).sharedCount +
      (is ++ [i]).countP (fun i => (s.entry n i).any (isShared s)) = (s.slot n).sharedCount) :
    EntriesReleased s (u.releaseEntry n i) n (is ++ [i]) where
  cells := cells
  freeList := freeList
  sharedIndex := sharedIndex
  entries j := by
    rw [State.entry_releaseEntry, h.entries]
    by_cases hj : j = i <;> simp [hj]
  length := SlotKept.releaseEntry.length.trans h.length
  privCount := privCount
  sharedCount := sharedCount
  others m hm := (SlotKept.releaseEntry.others m hm).trans (h.others m hm)

theorem SlotOk.countP_isPriv_le (h : SlotOk s n) (hnodup : is.Nodup) :
    is.countP (fun i => (s.entry n i).any (isPriv s)) ≤ (s.slot n).privCount :=
  h.privCount ▸ countP_entry_le rfl hnodup

theorem SlotOk.countP_isShared_le (h : SlotOk s n) (hnodup : is.Nodup) :
    is.countP (fun i => (s.entry n i).any (isShared s)) ≤ (s.slot n).sharedCount :=
  h.sharedCount ▸ countP_entry_le rfl hnodup

/-- The walk has not come to the entry yet. -/
theorem EntriesReleased.entry_eq (h : EntriesReleased s u n is) (hsorted : (is ++ [i]).Pairwise (· < ·)) :
    u.entry n i = s.entry n i := by
  rw [h.entries, if_neg (notMem_of_sorted_snoc hsorted)]

section
variable (htables : TablesOk s) (hsorted : (is ++ [i]).Pairwise (· < ·)) (h : EntriesReleased s u n is)
include htables hsorted h

theorem EntriesReleased.snoc_unbound (hi : s.entry n i = none) :
    EntriesReleased s (u.releaseEntry n i) n (is ++ [i]) := by
  have hsame : u.releaseEntry n i = u := State.releaseEntry_unbound ((h.entry_eq hsorted).trans hi)
  refine h.snoc (fun d => ?_) ?_ ?_ ?_ ?_ <;> rw [hsame]
  · rw [h.cells, htables.cells.afterRelease_snoc_of_ne (by simp [hi])]
  · rw [h.freeList, htables.cells.freedInOrder_snoc hsorted, freedAt_of_unbound hi]
    simp
  · exact h.sharedIndex
  · simp [hi, h.privCount]
  · simp [hi, h.sharedCount]

theorem EntriesReleased.snoc_priv (hi : s.entry n i = some c) (hc : s.cell c = .priv v n i) :
    EntriesReleased s (u.releaseEntry n i) n (is ++ [i]) := by
  have hui := (h.entry_eq hsorted).trans hi
  have huc : u.cell c = .priv v n i :=
    (h.cells c).trans (afterRelease_of_owner (notMem_of_sorted_snoc hsorted) hc)
  have hcell (d : CellNo) : (u.releaseEntry n i).cell d = if d = c then .free else u.cell d :=
    State.cell_releaseEntry_priv hui huc
  have hshared (d : CellNo) : isShared (u.releaseEntry n i) d = isShared u d := by
    unfold isShared
    rw [hcell]
    by_cases hd : d = c <;> simp [hd, huc]
  obtain ⟨hpriv, hsharedCount⟩ := State.counts_releaseEntry_priv hui huc
  refine h.snoc (fun d => ?_) ?_ ?_ ?_ ?_
  · rw [hcell]
    split
    · subst d; simp [afterRelease, hc]
    · rename_i hd
      rw [h.cells, htables.cells.afterRelease_snoc_of_ne (by simpa [hi] using Ne.symm hd)]
  · rw [State.freeList_releaseEntry_priv hui huc, h.freeList, htables.cells.freedInOrder_snoc hsorted,
      freedAt_of_priv hi hc, List.append_assoc]
    rfl
  · simp only [hshared, State.sharedIndex_releaseEntry_priv hui huc, h.sharedIndex]
  · have hle := (htables.slots n).countP_isPriv_le hsorted.nodup
    have hbefore := h.privCount
    simp only [List.countP_append, List.countP_singleton, hi, Option.any_some, isPriv, hc, if_true] at hle ⊢
    omega
  · simp [hi, isShared, hc, hsharedCount, h.sharedCount]

theorem EntriesReleased.snoc_shared (hi : s.entry n i = some c) (hc : s.cell c = .shared v k) :
    EntriesReleased s (u.releaseEntry n i) n (is ++ [i]) := by
  have hui := (h.entry_eq hsorted).trans hi
  have hlt := htables.cells.bindingsIn_lt_holders hsorted.nodup hi hc
  have huc : u.cell c = .shared v (k - bindingsIn s n is c) := by
    rw [h.cells, afterRelease_of_shared hc, if_neg hlt.ne']
  have hlast : k - bindingsIn s n is c ≤ 1 ↔ k = bindingsIn s n is c + 1 := by omega
  have hcell (d : CellNo) := State.cell_releaseEntry_shared (d := d) hui huc
  have hfree := State.freeList_releaseEntry_shared hui huc
  have hindex := State.sharedIndex_releaseEntry_shared hui huc
  simp only [hlast] at hcell hfree hindex
  obtain ⟨hprivCount, hshared⟩ := State.counts_releaseEntry_shared hui huc
  refine h.snoc (fun d => ?_) ?_ ?_ ?_ ?_
  · rw [hcell]
    split
    · subst d
      rw [afterRelease_of_shared hc, bindingsIn_snoc, if_pos hi, Nat.sub_sub]
    · rename_i hd
      rw [h.cells, htables.cells.afterRelease_snoc_of_ne (by simpa [hi] using Ne.symm hd)]
  · rw [hfree, h.freeList, htables.cells.freedInOrder_snoc hsorted, freedAt_snoc_of_shared hsorted hi hc]
    split <;> simp
  · rw [hindex, h.sharedIndex]
    by_cases hk : k = bindingsIn s n is c + 1
    · have hdropped (d : CellNo) :
          isShared (u.releaseEntry n i) d = (decide (d ≠ c) && isShared u d) := by
        unfold isShared
        rw [hcell]
        by_cases hd : d = c <;> simp [hd, hk]
      simp only [if_pos hk, List.filter_filter, hdropped]
    · have hkept (d : CellNo) : isShared (u.releaseEntry n i) d = isShared u d := by
        unfold isShared
        rw [hcell]
        by_cases hd : d = c <;> simp [hd, hk, huc]
      simp only [if_neg hk, hkept]
  · simp [hi, isPriv, hc, hprivCount, h.privCount]
  · have hle := (htables.slots n).countP_isShared_le hsorted.nodup
    have hbefore := h.sharedCount
    simp only [List.countP_append, List.countP_singleton, hi, Option.any_some, isShared, hc, if_true] at hle ⊢
    omega

end

/-! ## The whole walk -/

theorem State.releaseEntries_snoc :
    s.releaseEntries n (is ++ [i]) = (s.releaseEntries n is).releaseEntry n i :=
  List.foldl_append

/-- Before the first step nothing is released: each SHARED cell has holders, and each pair is of one. -/
theorem EntriesReleased.nil (h : CellsOk s) : EntriesReleased s s n [] where
  cells c := by
    cases hc : s.cell c with
    | free => simp [afterRelease, hc]
    | priv v m j => simp [afterRelease, hc]
    | shared v k =>
      have := h.one_le_holders hc
      rw [afterRelease_of_shared hc, if_neg (by simp [bindingsIn]; omega)]
      simp [bindingsIn]
  freeList := (List.append_nil _).symm
  sharedIndex := by
    refine (List.filter_eq_self.2 fun ⟨v, c⟩ hx => ?_).symm
    obtain ⟨k, hc⟩ := h.shared_of_pair hx
    simp [isShared, hc]
  entries _ := rfl
  length := rfl
  privCount := rfl
  sharedCount := rfl
  others _ _ := rfl

/-- The release walk over ascending entries of a slot does what the statements say of it. -/
theorem entriesReleased_releaseEntries (htables : TablesOk s) (hsorted : is.Pairwise (· < ·)) :
    EntriesReleased s (s.releaseEntries n is) n is := by
  induction is using List.reverseRecOn with
  | nil => exact .nil htables.cells
  | append_singleton is i ih =>
    have h := ih (List.pairwise_append.1 hsorted).1
    rw [State.releaseEntries_snoc]
    rcases htables.cells.entry_cases n i with hi | ⟨c, v, hi, hc⟩ | ⟨c, v, k, hi, hc⟩
    · exact h.snoc_unbound htables hsorted hi
    · exact h.snoc_priv htables hsorted hi hc
    · exact h.snoc_shared htables hsorted hi hc

theorem TablesOnly.releaseEntries : TablesOnly s (s.releaseEntries n is) := by
  induction is generalizing s with
  | nil => exact .refl s
  | cons i is ih => exact TablesOnly.releaseEntry.trans ih

theorem SlotKept.releaseEntries : SlotKept s (s.releaseEntries n is) n := by
  induction is generalizing s with
  | nil => exact .refl s n
  | cons i is ih => exact SlotKept.releaseEntry.trans ih

/-! ## RELEASE -/

theorem exec_release (p : Port) (s : State) : exec (.release p) s = grant .release answerRelease p s := rfl

section
variable {i : Byte} (howns : ownsOpen s p n) (hi : i.toNat < (s.slot n).size.entries)
include howns hi

theorem answerRelease_bound (hentry : s.entry n i.toNat = some c) :
    answerRelease p [0x15, slotByte n, i] s =
      staged (s.releaseEntries n [i.toNat]) p [.entry n i.toNat none] (flagByte (frees s c)) := by
  refine (withSlot_slotByte n _).trans <| (ifOwned_of_ownsOpen howns).trans <| (ifIndex_of_lt hi).trans ?_
  rw [show indexArg [0x15, slotByte n, i] = i.toNat from rfl, hentry]
  rfl

theorem answerRelease_unbound (hentry : s.entry n i.toNat = none) :
    answerRelease p [0x15, slotByte n, i] s = .refusal .unbound := by
  refine (withSlot_slotByte n _).trans <| (ifOwned_of_ownsOpen howns).trans <| (ifIndex_of_lt hi).trans ?_
  rw [show indexArg [0x15, slotByte n, i] = i.toNat from rfl, hentry]

end

/-- The flag that RELEASE returns says whether the entry's cell joins the free list (R60). -/
theorem CellsOk.flagByte_frees (h : CellsOk s) (hentry : s.entry n i = some c) :
    flagByte (frees s c) = [if freedInOrder s n [i] = [] then 0 else 1] := by
  have hfreed : freedInOrder s n [i] = (freedAt s n [i] i).toList :=
    (h.freedInOrder_snoc (is := []) (List.pairwise_singleton ..)).trans (List.nil_append _)
  rw [hfreed]
  cases hc : s.cell c with
  | free => exact absurd hc (h.cell_ne_free hentry)
  | priv v m j => simp [frees, hc, freedAt_of_priv hentry hc, flagByte]
  | shared v k =>
    have hone := h.one_le_holders hc
    have hlast := freedAt_snoc_of_shared (is := []) (List.pairwise_singleton ..) hentry hc
    rw [List.nil_append] at hlast
    by_cases hk : k = 1
    · simp [frees, hc, hlast, hk, bindingsIn, flagByte]
    · have : ¬ k ≤ 1 := by omega
      simp [frees, hc, hlast, hk, this, bindingsIn, flagByte]

/-- Settles O44: the release of one entry is the walk over it alone. -/
theorem releaseUnbindsEntry : Obligations.ReleaseUnbindsEntry := by
  intro p s n i htables hgrant howns hi
  refine ⟨fun hbound hroom => ?bound, fun hunbound => ?unbound⟩
  case bound =>
    obtain ⟨c, hentry⟩ := Option.ne_none_iff_exists'.1 hbound
    obtain ⟨t, hexec, hdelivers, hnotices, happended⟩ := hgrant.delivers_staged rfl .releaseEntries
      (answerRelease_bound howns hi hentry) hroom
    have hreleased : EntriesReleased s (s.releaseEntries n [i.toNat]) n [i.toNat] :=
      entriesReleased_releaseEntries htables (List.pairwise_singleton ..)
    refine ⟨t, (exec_release p s).trans hexec, ?_, hdelivers.frame,
      hreleased.of_tables hdelivers.tables hdelivers.slots, ?_, hdelivers.config, hnotices, happended⟩
    · exact htables.cells.flagByte_frees hentry ▸ hdelivers.answered
    · rw [hdelivers.slot]
      exact SlotKept.releaseEntries.slot
  case unbound => exact hgrant.refused rfl (answerRelease_unbound howns hi hunbound)

/-! ## RELEASE_RANGE -/

theorem exec_releaseRange (p : Port) (s : State) :
    exec (.releaseRange p) s = grant .releaseRange answerReleaseRange p s := rfl

theorem answerReleaseRange_checked {first count : Byte} (howns : ownsOpen s p n) (hcount : rangeCountOk count.toNat)
    (hrange : first.toNat + count.toNat ≤ (s.slot n).size.entries) :
    answerReleaseRange p [0x16, slotByte n, first, count] s =
      releaseBound p n (s.boundAmong n (State.indexRange first.toNat count.toNat)) s :=
  (withSlot_slotByte n _).trans <| (check_pos hcount).trans <| (ifOwned_of_ownsOpen howns).trans <|
    ifRange_of_le hrange

theorem releaseBound_of_ne_nil (h : is ≠ []) :
    releaseBound p n is s =
      staged (s.releaseEntries n is) p (is.map fun i => .entry n i none) (oneByte is.length) := by
  cases is with
  | nil => exact absurd rfl h
  | cons i is => rfl

theorem State.boundAmong_range_sorted {first count : Nat} :
    (s.boundAmong n (State.indexRange first count)).Pairwise (· < ·) :=
  (List.pairwise_lt_range' (s := first) (n := count)).filter _

/-- Settles O45: the walk goes over the bound entries of the range; with none, nothing is staged. -/
theorem releaseRangeUnbindsBoundEntries : Obligations.ReleaseRangeUnbindsBoundEntries := by
  intro p s n first count is htables hgrant howns hone hmax hrange his
  have hchecked := (answerReleaseRange_checked howns ⟨hone, hmax⟩ hrange).trans
    (congrArg (releaseBound p n · s) his.symm)
  refine ⟨fun hsome hroom => ?some, fun hnone => ?none⟩
  case some =>
    obtain ⟨t, hexec, hdelivers, hnotices, happended⟩ := hgrant.delivers_staged rfl .releaseEntries
      (hchecked.trans (releaseBound_of_ne_nil hsome)) (by rwa [List.length_map])
    have hreleased : EntriesReleased s (s.releaseEntries n is) n is :=
      entriesReleased_releaseEntries htables (his ▸ State.boundAmong_range_sorted)
    refine ⟨t, (exec_releaseRange p s).trans hexec, hdelivers.answered, hdelivers.frame,
      hreleased.of_tables hdelivers.tables hdelivers.slots, ?_, hdelivers.config, hnotices, happended⟩
    rw [hdelivers.slot]
    exact SlotKept.releaseEntries.slot
  case none =>
    obtain ⟨t, hexec, hdelivers, hnotices, hqueue⟩ := hgrant.delivers_accepted rfl (.refl s)
      (hchecked.trans (congrArg (releaseBound p n · s) hnone))
    exact ⟨t, (exec_releaseRange p s).trans hexec, hdelivers.answered, hdelivers.frame, hdelivers.tables,
      hdelivers.slots, hdelivers.config, hnotices, hqueue⟩

end Sys2Proof.Machine
end

section
/-! PROOFS. The beginning of a commit (spec/04, R83, R90 to R92): BLANK_START and COMMIT_TIMER_EXPIRY. -/

namespace Sys2Proof.Machine

variable {s : State}

/-! ## The timer restarts and a commit may begin (R83, R90, R92) -/

theorem State.restartTimer_commit (s : State) :
    s.restartTimer.commit = { s.commit with
      timer := if s.config.interval = 0 then .stopped else .running s.config.interval } := rfl

/-- The beginning of a commit is the commit unit's alone (R83). -/
theorem State.beginCommit_frame (s : State) : s.beginCommit = { s with commit := s.beginCommit.commit } := by
  unfold State.beginCommit
  split <;> rfl

@[simp] theorem State.beginCommit_timer (s : State) : s.beginCommit.commit.timer = s.commit.timer := by
  unfold State.beginCommit
  split <;> rfl

@[simp] theorem State.beginCommit_rasterIdle (s : State) :
    s.beginCommit.commit.rasterIdle = s.commit.rasterIdle := by
  unfold State.beginCommit
  split <;> rfl

@[simp] theorem State.beginCommit_appliedMark (s : State) :
    s.beginCommit.commit.appliedMark = s.commit.appliedMark := by
  unfold State.beginCommit
  split <;> rfl

/-! ## BLANK_START (R83, R105) -/

@[simp] theorem CommitUnit.blankStart_state (c : CommitUnit) : c.blankStart.state = c.state := by
  unfold CommitUnit.blankStart
  split <;> rfl

@[simp] theorem CommitUnit.blankStart_served (c : CommitUnit) : c.blankStart.served = c.served := by
  unfold CommitUnit.blankStart
  split <;> rfl

@[simp] theorem CommitUnit.blankStart_appliedMark (c : CommitUnit) : c.blankStart.appliedMark = c.appliedMark := by
  unfold CommitUnit.blankStart
  split <;> rfl

@[simp] theorem CommitUnit.blankStart_rasterIdle (c : CommitUnit) : c.blankStart.rasterIdle = false := by
  unfold CommitUnit.blankStart
  split <;> rfl

/-- A pending cut is withdrawn while a commit is under way, and only then (R83). -/
theorem CommitUnit.blankStart_cutPending (c : CommitUnit) :
    c.blankStart.cutPending = if c.state = .applying then false else c.cutPending := by
  unfold CommitUnit.blankStart
  split <;> simp [*]

/-- The state that BLANK_START makes before a commit may begin: blanked, the raster idle flag clear, a
pending cut withdrawn, the commit timer restarted. -/
def State.blankOpened (s : State) : State :=
  { s with scan := { s.scan with blanked := true }, commit := s.commit.blankStart }.restartTimer

theorem exec_blankStart (s : State) : exec .blankStart s = .next s.blankOpened.beginCommit := rfl

@[simp] theorem State.blankOpened_queue (s : State) : s.blankOpened.queue = s.queue := rfl

theorem State.blankOpened_commit (s : State) :
    s.blankOpened.commit = { s.commit.blankStart with
      timer := if s.config.interval = 0 then .stopped else .running s.config.interval } := rfl

/-- Settles O22: the commit unit after BLANK_START is that of blankOpened, except that from IDLE with
batches a commit begins on it. -/
theorem blankStartOpensBlanking : Obligations.BlankStartOpensBlanking := by
  intro s
  refine ⟨_, exec_blankStart s, s.blankOpened.beginCommit_frame, ?rasterIdle, ?appliedMark, ?timer,
    fun hidle hempty => ?stays, fun hidle hsome => ?begins, fun happlying => ?goesOn⟩
  case rasterIdle | appliedMark | timer => simp [State.blankOpened_commit]
  case stays =>
    rw [State.beginCommit_stays (s := s.blankOpened) (.inr hempty)]
    simp [State.blankOpened_commit, CommitUnit.blankStart_cutPending, hidle]
  case begins =>
    have hunit : s.blankOpened.commit.state = .idle := (CommitUnit.blankStart_state _).trans hidle
    rw [State.beginCommit_begins hunit hsome]
    exact ⟨rfl, rfl, rfl⟩
  case goesOn =>
    have hunit : s.blankOpened.commit.state = .applying := (CommitUnit.blankStart_state _).trans happlying
    rw [State.beginCommit_stays (.inl hunit)]
    simp [State.blankOpened_commit, CommitUnit.blankStart_cutPending, happlying]

/-! ## COMMIT_TIMER_EXPIRY (R91, R92) -/

theorem State.noteRasterIdle_commit (s : State) :
    s.noteRasterIdle.commit = { s.commit with rasterIdle := true } := by
  unfold State.noteRasterIdle
  split
  case isTrue hset => rw [← hset]
  case isFalse => simp

/-- RASTER_IDLE is raised at both ports exactly if the raster idle flag was clear (R92). -/
theorem State.port_noteRasterIdle (s : State) (q : Port) :
    s.noteRasterIdle.port q = { s.port q with
      notices := if !s.commit.rasterIdle then takeRaise (s.port q).mask (s.port q).notices .rasterIdle
        else (s.port q).notices } := by
  unfold State.noteRasterIdle
  split
  case isTrue hset => simp [hset]
  case isFalse hclear =>
    rw [State.port_raiseBoth]
    cases q <;> simp [State.port, hclear]

theorem State.noteRasterIdle_frame (s : State) :
    s.noteRasterIdle = { s with
      commit := s.noteRasterIdle.commit, portA := s.noteRasterIdle.portA, portB := s.noteRasterIdle.portB } := by
  unfold State.noteRasterIdle
  split <;> rfl

/-- The state that an expiry of the commit timer makes before a commit may begin: the timer restarted and an
idle raster noted. -/
def State.timerExpired (s : State) : State := s.restartTimer.noteRasterIdle

theorem exec_commitTimerExpiry {k : Nat} (h : s.commit.timer = .running k) :
    exec .commitTimerExpiry s = .next s.timerExpired.beginCommit := by
  change execCommitTimerExpiry s = _
  rw [execCommitTimerExpiry, h]
  rfl

@[simp] theorem State.timerExpired_queue (s : State) : s.timerExpired.queue = s.queue := by
  simp [State.timerExpired]

theorem State.timerExpired_commit (s : State) :
    s.timerExpired.commit = { s.commit with
      timer := if s.config.interval = 0 then .stopped else .running s.config.interval
      rasterIdle := true } :=
  s.restartTimer.noteRasterIdle_commit

theorem State.port_timerExpired (s : State) (q : Port) :
    s.timerExpired.port q = { s.port q with
      notices := if !s.commit.rasterIdle then takeRaise (s.port q).mask (s.port q).notices .rasterIdle
        else (s.port q).notices } :=
  s.restartTimer.port_noteRasterIdle q

theorem State.beginCommit_timerExpired_frame (s : State) :
    s.timerExpired.beginCommit = { s with
      commit := s.timerExpired.beginCommit.commit
      portA := s.timerExpired.beginCommit.portA
      portB := s.timerExpired.beginCommit.portB } := by
  rw [State.beginCommit_frame, State.timerExpired, State.noteRasterIdle_frame]
  rfl

theorem raised_beginCommit_timerExpired (s : State) :
    Raised s s.timerExpired.beginCommit (fun _ => !s.commit.rasterIdle) .rasterIdle where
  notices q := by rw [State.beginCommit_port, State.port_timerExpired]
  mask q := by rw [State.beginCommit_port, State.port_timerExpired]

/-- Settles O25: the commit unit after the expiry is that of timerExpired, except that from IDLE with
batches a commit begins on it. -/
theorem commitTimerExpiryRestartsAndBegins : Obligations.CommitTimerExpiryRestartsAndBegins := by
  intro s k hrunning
  refine ⟨_, exec_commitTimerExpiry hrunning, s.beginCommit_timerExpired_frame, ?timer, ?rasterIdle, ?appliedMark,
    fun q => ?ports, raised_beginCommit_timerExpired s, fun hidle hsome => ?begins, fun hstays => ?stays⟩
  case timer | rasterIdle | appliedMark => simp [State.timerExpired_commit]
  case ports => rw [State.beginCommit_port, State.port_timerExpired]
  case begins =>
    rw [State.beginCommit_begins (by rwa [State.timerExpired_commit]) (by rwa [State.timerExpired_queue])]
    exact ⟨rfl, rfl, rfl⟩
  case stays =>
    rw [State.beginCommit_stays (by rwa [State.timerExpired_commit, State.timerExpired_queue]),
      State.timerExpired_commit]
    exact ⟨rfl, rfl, rfl⟩

end Sys2Proof.Machine
end

section
/-! PROOFS. COMMIT_WAIT (spec/04, R97). -/

namespace Sys2Proof.Machine

variable {s : State} {p : Port}

theorem exec_commitWait (p : Port) (s : State) :
    exec (.commitWait p) s = grant .commitWait answerCommitWait p s := rfl

/-- The newest batch of the port is the one after which no batch of the port follows (R97). -/
theorem State.newestBatchOf_of_queue {older newer : List Batch} {b : Batch} (hqueue : s.queue = older ++ b :: newer)
    (hport : b.port = p) (hnewer : ∀ x ∈ newer, x.port ≠ p) : s.newestBatchOf p = some b := by
  have hfilter : newer.filter (fun x => x.port = p) = [] := by simpa using hnewer
  rw [State.newestBatchOf, hqueue, List.filter_append, List.filter_cons_of_pos (by simpa using hport), hfilter,
    List.getLast?_concat]

theorem State.newestBatchOf_eq_none (h : ∀ x ∈ s.queue, x.port ≠ p) : s.newestBatchOf p = none := by
  simpa [State.newestBatchOf] using h

theorem answerCommitWait_fence {cmd : List Byte} {b : Batch} (h : s.newestBatchOf p = some b) :
    answerCommitWait p cmd s = .fence b.number := by
  simp [answerCommitWait, h]

theorem answerCommitWait_accepted {cmd : List Byte} (h : s.newestBatchOf p = none) :
    answerCommitWait p cmd s = .accepted s (twoBytes s.commit.appliedMark) := by
  simp [answerCommitWait, h]

/-- Settles O27: the fence or the acceptance, as the port has a newest batch in the queue or none, is
delivered. -/
theorem commitWaitFencesNewestBatch : Obligations.CommitWaitFencesNewestBatch := by
  intro p s hgrant
  refine ⟨fun older b newer hqueue hport hnewer => ?fence, fun hnone => ?accepted⟩
  case fence =>
    have hanswer : answerCommitWait p [0x20] s = .fence b.number :=
      answerCommitWait_fence (State.newestBatchOf_of_queue hqueue hport hnewer)
    have hexec : exec (.commitWait p) s = .next (s.deliver p (.fence b.number)) :=
      (exec_commitWait p s).trans (hanswer ▸ hgrant.grant rfl answerCommitWait)
    exact ⟨none, hexec⟩
  case accepted =>
    obtain ⟨t, hexec, hdelivers, hnotices, hqueue⟩ :=
      hgrant.delivers_accepted rfl (.refl s) (answerCommitWait_accepted (State.newestBatchOf_eq_none hnone))
    exact ⟨t, (exec_commitWait p s).trans hexec, hdelivers.answered, hdelivers.frame, hdelivers.tables,
      hdelivers.slots, hdelivers.config, hqueue, hnotices⟩

end Sys2Proof.Machine
end

section
/-! PROOFS. LINE_START and the band selection (spec/05, R104, R108). -/

namespace Sys2Proof.Machine

/-! ## LINE_START (R104) -/

/-- The line that LINE_START opens: the next one, or the last one again (R104). -/
def State.lineAfter (s : State) : Nat :=
  if s.scan.line < Config.lastLine then s.scan.line + 1 else s.scan.line

theorem exec_lineStart (s : State) : exec .lineStart s = .next (s.startLine s.lineAfter) := rfl

theorem State.lineAfter_eq_min {s : State} (h : s.scan.line ≤ 2047) : s.lineAfter = min (s.scan.line + 1) 2047 := by
  unfold State.lineAfter Config.lastLine
  split
  case isTrue hbefore => omega
  case isFalse hlast => omega

/-- Settles O21: the line is opened at the counter's next value, which under the premise is the next line
held at 2047. -/
theorem lineStartOpensLine : Obligations.LineStartOpensLine := by
  intro s hline
  rw [exec_lineStart, State.lineAfter_eq_min hline]
  rfl

/-! ## Which band a line selects (R108) -/

/-- A band that the selection for a line may choose: enabled, and not begun after the line (R108). -/
def Band.Eligible (line : Nat) (b : Band) : Prop := b.enabled = true ∧ b.firstLine ≤ line

/-- The band that the rule names (R108): eligible, and every eligible band begins before it, or at the same
line with no lower number. -/
def LatestBand (bands : Vector Band 4) (line : Nat) (k : BandNo) : Prop :=
  bands[k].Eligible line ∧ ∀ j : BandNo, bands[j].Eligible line →
    bands[j].firstLine < bands[k].firstLine ∨ (bands[j].firstLine = bands[k].firstLine ∧ k ≤ j)

section
variable {bands : Vector Band 4} {line : Nat} {k : BandNo}

/-- The rule names at most one band: of two, each would begin no later than the other and have no higher
number. -/
theorem LatestBand.unique {m : BandNo} (hk : LatestBand bands line k) (hm : LatestBand bands line m) : k = m := by
  obtain ⟨hkEligible, hkLatest⟩ := hk
  obtain ⟨hmEligible, hmLatest⟩ := hm
  have hkm := hkLatest m hmEligible
  have hmk := hmLatest k hkEligible
  rw [Fin.le_def] at hkm hmk
  exact Fin.ext (by omega)

/-! ### The comparison of two bands and the walk over the table -/

/-- One more band leaves the choice as it was, or is chosen itself, and then begins after the band chosen
before it. -/
theorem betterBand_cases (line : Nat) (best : Option Band) (b : Band) :
    betterBand line best b = best ∨
      (betterBand line best b = some b ∧ ∀ x ∈ best, x.firstLine < b.firstLine) := by
  unfold betterBand
  split
  case isFalse => exact .inl rfl
  case isTrue =>
    cases best with
    | none => exact .inr ⟨rfl, by simp⟩
    | some x =>
      by_cases hlater : x.firstLine < b.firstLine
      · exact .inr ⟨if_pos hlater, by simpa using hlater⟩
      · exact .inl (if_neg hlater)

/-- The walk chooses a band of the list before which every eligible band begins earlier: a later one of
equals never displaces it. -/
theorem exists_index_of_foldl_betterBand {l : List Band} {b : Band} (h : l.foldl (betterBand line) none = some b) :
    ∃ k : Nat, l[k]? = some b ∧ ∀ j < k, ∀ x : Band, l[j]? = some x → x.Eligible line → x.firstLine < b.firstLine := by
  induction l using List.reverseRecOn with
  | nil => simp at h
  | append_singleton l c ih =>
    rw [List.foldl_concat] at h
    obtain hkept | ⟨htaken, hbefore⟩ := betterBand_cases line (l.foldl (betterBand line) none) c
    · obtain ⟨k, hk, hearlier⟩ := ih (hkept ▸ h)
      have hlt : k < l.length := (List.getElem?_eq_some_iff.1 hk).1
      refine ⟨k, by rwa [List.getElem?_append_left hlt], fun j hj x hx => hearlier j hj x ?_⟩
      rwa [List.getElem?_append_left (hj.trans hlt)] at hx
    · obtain rfl : c = b := Option.some.inj (htaken.symm.trans h)
      refine ⟨l.length, List.getElem?_concat_length, fun j hj x hx heligible => ?_⟩
      rw [List.getElem?_append_left hj] at hx
      obtain ⟨y, hy, hxy⟩ := (betterBand_foldl line l none (by simp)).2 x (.inl ⟨List.mem_of_getElem? hx, heligible⟩)
      exact hxy.trans_lt (hbefore y hy)

/-! ### The chosen band -/

theorem getElem?_toList_bands (bands : Vector Band 4) (j : BandNo) : bands.toList[j.val]? = some bands[j] := by
  simp

theorem exists_number_of_getElem? {i : Nat} {b : Band} (h : bands.toList[i]? = some b) :
    ∃ k : BandNo, k.val = i ∧ bands[k] = b := by
  obtain ⟨hi, hb⟩ := List.getElem?_eq_some_iff.1 h
  exact ⟨⟨i, by simpa using hi⟩, rfl, by simpa using hb⟩

theorem eligible_of_chosenBand {b : Band} (h : chosenBand bands line = some b) : b.Eligible line :=
  (betterBand_foldl line bands.toList none (by simp)).1 b h

/-- No eligible band begins after the chosen one, and with an eligible band there is a chosen one. -/
theorem exists_chosenBand_of_eligible (h : bands[k].Eligible line) :
    ∃ b, chosenBand bands line = some b ∧ bands[k].firstLine ≤ b.firstLine :=
  (betterBand_foldl line bands.toList none (by simp)).2 bands[k]
    (.inl ⟨List.mem_of_getElem? (getElem?_toList_bands bands k), h⟩)

theorem exists_latestBand_of_chosenBand {b : Band} (h : chosenBand bands line = some b) :
    ∃ k, LatestBand bands line k ∧ bands[k] = b := by
  obtain ⟨i, hi, hearlier⟩ := exists_index_of_foldl_betterBand h
  obtain ⟨k, rfl, rfl⟩ := exists_number_of_getElem? hi
  refine ⟨k, ⟨eligible_of_chosenBand h, fun j hj => ?_⟩, rfl⟩
  obtain hlow | hhigh := lt_or_ge j k
  · exact .inl (hearlier j hlow _ (getElem?_toList_bands bands j) hj)
  · have hle : bands[j].firstLine ≤ bands[k].firstLine := by simpa [h] using exists_chosenBand_of_eligible hj
    exact hle.lt_or_eq.imp_right fun heq => ⟨heq, hhigh⟩

theorem chosenBand_eq_some_iff {b : Band} :
    chosenBand bands line = some b ↔ ∃ k, LatestBand bands line k ∧ bands[k] = b := by
  refine ⟨exists_latestBand_of_chosenBand, ?_⟩
  rintro ⟨k, hk, rfl⟩
  obtain ⟨b, hb, -⟩ := exists_chosenBand_of_eligible hk.1
  obtain ⟨m, hm, rfl⟩ := exists_latestBand_of_chosenBand hb
  rwa [hk.unique hm]

theorem chosenBand_eq_none_iff : chosenBand bands line = none ↔ ∀ j : BandNo, ¬ bands[j].Eligible line := by
  constructor
  · intro hnone j hj
    obtain ⟨b, hb, -⟩ := exists_chosenBand_of_eligible hj
    simp [hnone] at hb
  · intro h
    refine Option.eq_none_iff_forall_ne_some.2 fun b hb => ?_
    obtain ⟨k, hk, -⟩ := exists_latestBand_of_chosenBand hb
    exact h k hk.1

/-! ### The line selection -/

theorem selectLine_eq_some_iff {sel : LineSelection} :
    selectLine bands line = some sel ↔
      ∃ k, LatestBand bands line k ∧ sel = ⟨bands[k].slot, bands[k].base⟩ := by
  simp [selectLine, chosenBand_eq_some_iff, eq_comm (b := sel)]

theorem selectLine_eq_none_iff :
    selectLine bands line = none ↔ ∀ j : BandNo, bands[j].enabled = true → line < bands[j].firstLine := by
  simp [selectLine, chosenBand_eq_none_iff, Band.Eligible]

/-- Without a line selection every pixel has the display blank colour, blanked or not (R108, R111). -/
theorem pixelColour_of_no_selection {sc : Scan} (d : Display) (x : Byte) (v : Bool) (h : sc.selection = none) :
    pixelColour d sc x v = d.blank := by
  unfold pixelColour
  split
  case isTrue hblanked => rfl
  case isFalse hshown => rw [h]

end

/-- Settles O23: the walk over the band table ends with the one band that the rule names, and with none
exactly if no band is eligible. -/
theorem bandSelectionChoosesLatestBand : Obligations.BandSelectionChoosesLatestBand := by
  intro bands line
  refine ⟨fun sel => ?selected, selectLine_eq_none_iff, fun d sc x v => pixelColour_of_no_selection d x v⟩
  case selected =>
    rw [selectLine_eq_some_iff]
    simp only [LatestBand, Band.Eligible, and_imp]
    constructor
    · rintro ⟨k, ⟨⟨henabled, hreached⟩, hlatest⟩, hsel⟩
      exact ⟨k, henabled, hreached, hsel, hlatest⟩
    · rintro ⟨k, henabled, hreached, hsel, hlatest⟩
      exact ⟨k, ⟨⟨henabled, hreached⟩, hlatest⟩, hsel⟩

end Sys2Proof.Machine
end

section
/-! PROOFS. DATA_WRITE in COLLECTING and out of phase (spec/06, R124, R125, R133), and the control write
(spec/06, R137, R139, R174). -/

namespace Sys2Proof.Machine

variable {s : State} {p : Port} {x : PortState} {b : Byte}

/-! ## DATA_WRITE -/

theorem exec_dataWrite (p : Port) (b : Byte) (s : State) :
    exec (.dataWrite p b) s = .next (s.setPort p ((s.port p).dataWrite b)) := rfl

theorem PortState.dataWrite_collecting (h : x.seq = .collecting) : x.dataWrite b = x.collect b := by
  simp [PortState.dataWrite, h]

/-- A byte that the sequencer state has no place for is discarded (R133). -/
theorem PortState.dataWrite_outOfPhase (h : x.seq ∈ [SeqState.pending, .waiting, .reply]) :
    x.dataWrite b = x.sequenceError := by
  simp only [List.mem_cons, List.not_mem_nil, or_false] at h
  obtain h | h | h := h <;> simp only [PortState.dataWrite, h]

/-! ### The byte taken in COLLECTING (R124, R125) -/

/-- The port with one more byte of its command and the timer restarted. -/
def PortState.appended (x : PortState) (b : Byte) : PortState :=
  { x with collected := x.collected ++ [b], interByteTimer := true }

theorem PortState.collect_inside {n : Nat} (hexpected : x.expected = some n) (hlength : x.collected.length + 1 ≠ n) :
    x.collect b = x.appended b := by
  simp [PortState.collect, PortState.appended, hexpected, hlength]

theorem PortState.collect_last {n : Nat} (hexpected : x.expected = some n) (hlength : x.collected.length + 1 = n) :
    x.collect b = (x.appended b).toPending := by
  simp [PortState.collect, PortState.appended, hexpected, hlength]

/-- While the length is not yet known, a byte that is not the fourth, the count byte, is appended only. -/
theorem PortState.collect_notCount (hexpected : x.expected = none) (hlength : x.collected.length + 1 ≠ 4) :
    x.collect b = x.appended b := by
  simp only [PortState.collect, PortState.appended, hexpected, List.length_append, List.length_singleton,
    if_neg hlength]

/-- The fourth byte of a LOAD_VALUES is its count (R125). -/
theorem PortState.collect_count (hexpected : x.expected = none) (hlength : x.collected.length + 1 = 4) :
    x.collect b = if 1 ≤ b.toNat ∧ b.toNat ≤ 16 then { x.appended b with expected := some (4 + 3 * b.toNat) }
      else x.reply [0x02] := by
  simp only [PortState.collect, PortState.appended, hexpected, List.length_append, List.length_singleton,
    if_pos hlength]
  rfl

/-- Settles O11: one clause for each way that a byte taken in COLLECTING can go. -/
theorem dataWriteInCollectingCollects : Obligations.DataWriteInCollectingCollects := by
  intro p b s hcollecting
  have hexec : exec (.dataWrite p b) s = .next (s.setPort p ((s.port p).collect b)) := by
    rw [exec_dataWrite, PortState.dataWrite_collecting hcollecting]
  rw [hexec]
  refine ⟨fun n hexpected hlength => ?inside, fun n hexpected hlength => ?last,
    fun hexpected hlength => ?notCount, fun hexpected hlength hlow hhigh => ?count,
    fun hexpected hlength hcount => ?badCount⟩
  case inside => rw [PortState.collect_inside hexpected hlength]; rfl
  case last => rw [PortState.collect_last hexpected hlength]; rfl
  case notCount => rw [PortState.collect_notCount hexpected hlength]; rfl
  case count => rw [PortState.collect_count hexpected hlength, if_pos ⟨hlow, hhigh⟩]; rfl
  case badCount =>
    rw [PortState.collect_count hexpected hlength, if_neg (by omega)]
    exact ⟨none, rfl⟩

/-- Settles O12: all that a sequence error changes is SEQERR. -/
theorem dataWriteOutOfPhaseIsDiscarded : Obligations.DataWriteOutOfPhaseIsDiscarded := by
  intro p b s hphase
  rw [exec_dataWrite, PortState.dataWrite_outOfPhase hphase]; rfl

/-! ## The control write -/

theorem exec_interruptEnables (p : Port) (b : Byte) (s : State) :
    exec (.interruptEnables p b) s = .next (s.setPort p ((s.port p).controlWrite b)) := rfl

/-- The row names PORT_RESET, so the model sets bit 0 of the byte (log 8). -/
theorem exec_portReset (p : Port) (b : Byte) (s : State) :
    exec (.portReset p b) s = .next (s.setPort p ((s.port p).controlWrite (b ||| 1))) := rfl

/-- A byte that carries PORT_RESET is the byte that the row PORT_RESET writes. -/
theorem or_one_of_getLsbD_zero (h : b.getLsbD 0 = true) : b ||| 1 = b := by
  ext i hi
  cases i with
  | zero => simpa using h
  | succ i => simp

theorem PortState.controlWrite_of_clear (h : b.getLsbD 0 = false) : x.controlWrite b = x.setEnables b :=
  if_neg (by rw [h]; exact Bool.false_ne_true)

theorem PortState.controlWrite_of_set (h : b.getLsbD 0 = true) : x.controlWrite b = (x.setEnables b).portReset :=
  if_pos h

/-! ### What the interrupt line and the status byte see of a control write (R136, R138) -/

/-- Neither condition of R138 holds: each has its enable clear or nothing to report. -/
theorem State.irq_eq_false (hresult : (s.port p).resultIrqEn = false ∨ (s.port p).seq ≠ .reply)
    (hnotice : (s.port p).noticeIrqEn = false ∨ (s.port p).notices = []) : s.irq p = false := by
  have hresultLow : s.resultCondition p = false := by
    obtain h | h := hresult <;> simp [State.resultCondition, h]
  have hnoticeLow : s.noticeCondition p = false := by
    obtain h | h := hnotice <;> simp [State.noticeCondition, h]
  rw [State.irq, hresultLow, hnoticeLow, Bool.or_self]

/-- The status byte does not report the enables (R174). -/
theorem State.statusByte_setEnables (s : State) (p q : Port) (b : Byte) :
    (s.setPort p ((s.port p).setEnables b)).statusByte q = s.statusByte q := by
  simp only [State.statusByte, State.isControl, State.setPort_controlPort, State.port_setPort]
  split
  case isTrue hq => subst q; rfl
  case isFalse => rfl

/-- Settles O16: the write sets the enables, and with PORT_RESET then resets the port. -/
theorem controlWriteSetsEnablesAndResets : Obligations.ControlWriteSetsEnablesAndResets := by
  intro p b s
  refine ⟨fun hclear => ?enables, fun hset => ?reset⟩
  case enables =>
    rw [exec_interruptEnables, PortState.controlWrite_of_clear hclear]
    refine ⟨_, rfl, rfl, ?_, fun q => s.statusByte_setEnables p q b⟩
    rintro rfl
    exact State.irq_eq_false (.inl (by simp [PortState.setEnables])) (.inl (by simp [PortState.setEnables]))
  case reset =>
    rw [exec_portReset, or_one_of_getLsbD_zero hset, PortState.controlWrite_of_set hset]
    refine ⟨_, rfl, rfl, State.irq_eq_false (.inr ?_) (.inr ?_)⟩ <;> simp [PortState.portReset]

end Sys2Proof.Machine
end

section
/-! PROOFS. READ_STATE (spec/07, R158, R159) and the numbers of Table 9-11 (R19, R171). -/

namespace Sys2Proof.Machine

variable {s : State} {c : CellNo}

/-! ## A number in two bytes (R171) -/

theorem twoBytes_eq (k : Nat) : twoBytes k = [BitVec.ofNat 8 (k / 256), BitVec.ofNat 8 (k % 256)] := by
  have hlow : BitVec.ofNat 8 (k % 256) = BitVec.ofNat 8 k := BitVec.eq_of_toNat_eq (by simp)
  rw [twoBytes, hlow]

/-- Below 65536 the first of the two bytes loses nothing. -/
theorem twoBytes_value {k : Nat} (hk : k ≤ 65535) :
    (BitVec.ofNat 8 (k / 256)).toNat * 256 + (BitVec.ofNat 8 (k % 256)).toNat = k := by
  simp only [BitVec.toNat_ofNat]
  omega

/-! ## The report of READ_STATE (R158, Table 9-11) -/

theorem State.map_cell_finRange (s : State) : (List.finRange 512).map s.cell = s.cells.toList :=
  List.ext_getElem (by simp) fun i _ _ => by simp [State.cell]

theorem State.privCellCount_eq (s : State) : s.privCellCount = (List.finRange 512).countP (isPriv s) := by
  rw [State.privCellCount, ← s.map_cell_finRange, List.countP_map]
  rfl

theorem State.stateFlags_eq (s : State) (p : Port) :
    s.stateFlags p = BitVec.ofNat 8 ((if s.commit.rasterIdle then 1 else 0) +
      (if s.commit.state = .applying then 2 else 0) + (if s.controlPort = p then 4 else 0)) := by
  simp only [State.stateFlags, State.isControl, byteOfBits, Bool.toNat, Bool.cond_eq_ite, decide_eq_true_eq, ite_mul,
    one_mul, zero_mul, Bool.false_eq_true, if_false]
  congr 1
  omega

theorem exec_readState (p : Port) (s : State) : exec (.readState p) s = grant .readState answerReadState p s := rfl

/-! ## The three counts of cells (R19) -/

theorem isShared_eq_true : isShared s c = true ↔ ∃ v k, s.cell c = .shared v k := by
  unfold isShared
  cases s.cell c <;> simp

/-- The free list holds the FREE cells (R3, R13). -/
theorem CellsOk.mem_freeList (h : CellsOk s) : c ∈ s.freeList ↔ s.cell c = .free := by
  cases hc : s.cell c with
  | free => simpa using (h.of_free hc).1
  | shared v k => simpa using (h.of_shared hc).1
  | priv v n i => simpa using (h.of_priv hc).1

/-- The cells of the shared-value index are the SHARED cells (R15). -/
theorem CellsOk.mem_cells_sharedIndex (h : CellsOk s) :
    c ∈ s.sharedIndex.map (fun x => x.2) ↔ isShared s c = true := by
  rw [isShared_eq_true]
  constructor
  · intro hmem
    obtain ⟨⟨v, d⟩, hpair, rfl⟩ := List.mem_map.1 hmem
    exact ⟨v, h.shared_of_pair hpair⟩
  · rintro ⟨v, k, hc⟩
    obtain ⟨-, hpair, -⟩ := h.of_shared hc
    exact List.mem_map.2 ⟨(v, c), hpair, rfl⟩

/-- A list without repetition that holds the cells of one kind is as long as there are such cells. -/
theorem length_eq_countP_of_mem_iff {l : List CellNo} {q : CellNo → Bool} (hnodup : l.Nodup)
    (hmem : ∀ c, c ∈ l ↔ q c = true) : l.length = (List.finRange 512).countP q := by
  rw [List.countP_eq_length_filter]
  refine List.Perm.length_eq ((List.perm_ext_iff_of_nodup hnodup ((List.nodup_finRange 512).filter q)).2 fun c => ?_)
  simp [hmem]

theorem CellsOk.freeCount_eq (h : CellsOk s) :
    s.freeList.length = (List.finRange 512).countP fun c => decide (s.cell c = .free) :=
  length_eq_countP_of_mem_iff h.freeNodup fun c => by simp [h.mem_freeList]

theorem CellsOk.sharedCellCount_eq (h : CellsOk s) :
    s.sharedIndex.length = (List.finRange 512).countP (isShared s) := by
  rw [← List.length_map (fun x : Colour × CellNo => x.2)]
  exact length_eq_countP_of_mem_iff (h.sorted.imp Fin.ne_of_lt) fun c => h.mem_cells_sharedIndex

/-- Each cell is of exactly one of the three kinds (R1). -/
theorem countP_kinds (s : State) (l : List CellNo) :
    l.countP (fun c => decide (s.cell c = .free)) + l.countP (isShared s) + l.countP (isPriv s) = l.length := by
  induction l with
  | nil => rfl
  | cons c l ih =>
    cases hc : s.cell c <;> simp [isShared, isPriv, hc] <;> omega

theorem CellsOk.counts_sum (h : CellsOk s) :
    s.freeList.length + s.sharedIndex.length + (List.finRange 512).countP (isPriv s) = 512 := by
  rw [h.freeCount_eq, h.sharedCellCount_eq, countP_kinds, List.length_finRange]

/-! ## The obligation -/

/-- Settles O50: the answer accepts the state as it is, and its fields are the numbers of the layout. -/
theorem readStateReportsOccupancy : Obligations.ReadStateReportsOccupancy := by
  refine ⟨?_, fun s htables => htables.cells.counts_sum, fun k hk => ⟨_, _, twoBytes_eq k, twoBytes_value hk⟩⟩
  rintro p s free shared priv mark next hgrant rfl rfl hpriv rfl rfl
  obtain ⟨t, hexec, hdelivers, hnotices, hqueue⟩ :=
    hgrant.delivers_accepted (answer := answerReadState) (fields := stateFields s p) rfl (.refl s) rfl
  refine ⟨t, (exec_readState p s).trans hexec, ?_, hdelivers.frame, hdelivers.tables, hdelivers.slots,
    hdelivers.config, hqueue, hnotices⟩
  have hanswered := hdelivers.answered
  simp only [stateFields, twoBytes_eq, s.privCellCount_eq, ← hpriv, s.stateFlags_eq] at hanswered
  exact hanswered

end Sys2Proof.Machine
end

section
/-! PROOFS. The notice set (spec/08): taking a raise (R162, R163), GET_NOTICE (R165, R177), SET_NOTICES (R166). -/

namespace Sys2Proof.Machine

variable {s : State} {p : Port} {cmd : List Byte}

/-! ## Taking a raise (R162, R163) -/

theorem map_of_otherKinds {l : List Notice} {x : Notice} (h : ∀ z ∈ l, noticeKind z ≠ noticeKind x) :
    l.map (fun n => if noticeKind n = noticeKind x then updateNotice n x else n) = l :=
  (List.map_congr_left fun z hz => if_neg (h z hz)).trans l.map_id'

/-- A set holds at most one notice of a kind (R160), so the update in place touches one notice alone. -/
theorem takeRaise_inPlace {m : NoticeMask} {before after : List Notice} {x y : Notice}
    (hy : noticeKind y = noticeKind x) (hothers : ∀ z ∈ before ++ after, noticeKind z ≠ noticeKind x) :
    takeRaise m (before ++ y :: after) x = before ++ updateNotice y x :: after := by
  obtain ⟨hbefore, hafter⟩ := List.forall_mem_append.1 hothers
  rw [takeRaise_present ⟨y, by simp, hy⟩, List.map_append, List.map_cons, map_of_otherKinds hbefore,
    map_of_otherKinds hafter, if_pos hy]

/-- Settles O28: an absent kind as the mask says, a present kind in its place, and the update kind by kind. -/
theorem raiseIsTakenBySet : Obligations.RaiseIsTakenBySet :=
  ⟨fun _ _ _ => takeRaise_added, fun _ _ _ => takeRaise_ignored, fun _ _ _ _ _ => takeRaise_inPlace,
    fun _ _ => rfl, fun _ _ => rfl, fun _ _ => rfl, rfl⟩

/-! ## The delivery of a command that changes the issuing port's notices and mask alone -/

/-- The port with the notices and the mask given. -/
def PortState.withNotices (x : PortState) (l : List Notice) (m : NoticeMask) : PortState :=
  { x with notices := l, mask := m }

/-- The working tables of `s` are delivered as they are; the port's notices are then `l` and its mask `m`. -/
theorem Granted.delivers_notices {c : Command} {answer : Port → List Byte → State → Answer} {fields : List Byte}
    {l : List Notice} {m : NoticeMask} (hg : Granted s p cmd) (hc : commandOfByte (byteAt cmd 1) = some c)
    (ha : answer p cmd s = .accepted (s.setPort p ((s.port p).withNotices l m)) fields) :
    ∃ t, Sys2Proof.Machine.grant c answer p s = .next t ∧ Delivers s s t p fields ∧ SameQueue s t ∧
      (∀ q, (t.port q).notices = if q = p then l else (s.port q).notices) ∧
      ∀ q, (t.port q).mask = if q = p then m else (s.port q).mask :=
  ⟨_, hg.accepted hc ha,
    { answered := .of_deliver_accepted (by rw [State.port_setPort_self]; rfl) _
      frame := .of_deliver_accepted _ (by simp) (by simp) (by simp) (by simp) (by simp)
      tables := .of_deliver_accepted _ (by simp) (by simp) (by simp)
      slots := by simp [Answer.tables]
      config := .of_deliver_accepted _ (by simp) (by simp) },
    { queue := by simp [Answer.tables]
      nextBatch := by simp [Answer.tables] },
    fun q => by
      rw [State.notices_deliver_accepted, State.port_setPort, apply_ite PortState.notices]
      rfl,
    fun q => by
      rw [State.mask_deliver_accepted, State.port_setPort, apply_ite PortState.mask]
      rfl⟩

/-! ## GET_NOTICE (R165, R177) -/

theorem exec_getNotice (p : Port) (s : State) : exec (.getNotice p) s = grant .getNotice answerGetNotice p s := rfl

theorem answerGetNotice_empty (h : (s.port p).notices = []) : answerGetNotice p cmd s = .accepted s [0, 0, 0] := by
  rw [answerGetNotice, h]

theorem answerGetNotice_oldest {x : Notice} {rest : List Notice} (h : (s.port p).notices = x :: rest) :
    answerGetNotice p cmd s = .accepted (s.setPort p ((s.port p).withNotices rest (s.port p).mask))
      (kindByte (noticeKind x) :: payloadBytes x) := by
  rw [answerGetNotice, h]
  rfl

/-- Settles O29: the empty set is delivered as it is, another without its oldest notice. -/
theorem getNoticeReturnsOldest : Obligations.GetNoticeReturnsOldest := by
  intro p s hgrant
  cases hset : (s.port p).notices with
  | nil =>
    obtain ⟨t, hexec, hdelivers, hnotices, hqueue⟩ :=
      hgrant.delivers_accepted rfl (.refl s) (answerGetNotice_empty hset)
    exact ⟨t, (exec_getNotice p s).trans hexec, hdelivers.frame, hdelivers.tables, hdelivers.slots,
      hdelivers.config, hqueue, hnotices.notices _, hnotices.mask,
      fun _ => ⟨(hnotices.notices p).trans hset, hdelivers.answered⟩, fun _ _ => nofun⟩
  | cons x rest =>
    obtain ⟨t, hexec, hdelivers, hqueue, hnotices, hmask⟩ :=
      hgrant.delivers_notices rfl (answerGetNotice_oldest hset)
    have hothers : (t.port p.other).notices = (s.port p.other).notices :=
      (hnotices p.other).trans (if_neg (Port.other_ne p))
    have hmaskKept (q : Port) : (t.port q).mask = (s.port q).mask :=
      (hmask q).trans (ite_eq_right_iff.2 fun hq => hq ▸ rfl)
    refine ⟨t, (exec_getNotice p s).trans hexec, hdelivers.frame, hdelivers.tables, hdelivers.slots,
      hdelivers.config, hqueue, hothers, hmaskKept, nofun, ?oldest⟩
    rintro _ _ ⟨⟩
    have hanswered := hdelivers.answered
    refine ⟨(hnotices p).trans (if_pos rfl), ?commitDone, ?mapRevoked, ?cellsLow, ?rasterIdle⟩
    case commitDone => rintro k rfl; exact hanswered
    case mapRevoked => rintro v rfl; exact hanswered
    case cellsLow => rintro k rfl; exact hanswered
    case rasterIdle => rintro rfl; exact hanswered

/-! ## SET_NOTICES (R166) -/

theorem exec_setNotices (p : Port) (s : State) :
    exec (.setNotices p) s = grant .setNotices answerSetNotices p s := rfl

theorem answerSetNotices_accepted {b : Byte} :
    answerSetNotices p [0x22, b] s =
      .accepted (s.setPort p ((s.port p).withNotices (s.port p).notices (maskOfByte b))) [] := rfl

/-- Settles O30: the mask read from the byte is delivered with the notices that stood before. -/
theorem setNoticesReplacesMask : Obligations.SetNoticesReplacesMask := by
  intro p s b hgrant
  obtain ⟨t, hexec, hdelivers, hqueue, hnotices, hmask⟩ :=
    hgrant.delivers_notices rfl answerSetNotices_accepted
  have hreplaced : (t.port p).mask = maskOfByte b := (hmask p).trans (if_pos rfl)
  have hothers : (t.port p.other).mask = (s.port p.other).mask :=
    (hmask p.other).trans (if_neg (Port.other_ne p))
  have hkept (q : Port) : (t.port q).notices = (s.port q).notices :=
    (hnotices q).trans (ite_eq_right_iff.2 fun hq => hq ▸ rfl)
  exact ⟨t, (exec_setNotices p s).trans hexec, hdelivers.answered, hdelivers.frame, hdelivers.tables,
    hdelivers.slots, hdelivers.config, hqueue, hreplaced, hothers, hkept⟩

end Sys2Proof.Machine
end

section
/-! PROOFS. What an executed row can do, said once: the access at a port, the events of the raster and the
commit unit, and the grant and execution of a command. -/

namespace Sys2Proof.Machine

variable {s t : State} {p : Port} {c : Command} {i : Instr}

/-! ## The rows of the engine -/

/-- The answer of the engine to each command of Table 6-5. -/
def answerOf : Command → Port → List Byte → State → Answer
  | .openMap => answerOpenMap
  | .closeMap => answerCloseMap
  | .setFallback => answerSetFallback
  | .mapInfo => answerMapInfo
  | .allocShared => answerAllocShared
  | .allocPrivate => answerAllocPrivate
  | .allocRange => answerAllocRange
  | .store => answerStore
  | .loadValues => answerLoadValues
  | .release => answerRelease
  | .releaseRange => answerReleaseRange
  | .freeze => answerFreeze
  | .queryIndex => answerQueryIndex
  | .findValue => answerFindValue
  | .commitWait => answerCommitWait
  | .getNotice => answerGetNotice
  | .setNotices => answerSetNotices
  | .readState => answerReadState
  | .forceClose => answerForceClose
  | .setQuota => answerSetQuota
  | .setBand => answerSetBand
  | .setConfig => answerSetConfig
  | .setBlank => answerSetBlank

theorem exec_commandRow (c : Command) (p : Port) (s : State) :
    exec (commandRow c p) s = grant c (answerOf c) p s := by
  cases c <;> rfl

theorem commandOfByte_codeOf (c : Command) : commandOfByte (codeOf c) = some c := by
  cases c <;> rfl

/-- No other byte names the command (Table 9-6). -/
theorem eq_codeOf_of_commandOfByte {b : Byte} (h : commandOfByte b = some c) : b = codeOf c := by
  revert c
  revert b
  decide

theorem commandOfByte_eq_some {b : Byte} : commandOfByte b = some c ↔ b = codeOf c :=
  ⟨eq_codeOf_of_commandOfByte, fun h => h ▸ commandOfByte_codeOf c⟩

/-! ## The rows that act on one port -/

/-- What a row makes of the one port it acts on, with nothing else of the part changed (spec/06). -/
inductive PortStep (p : Port) (x : PortState) : Instr → PortState → Prop
  | dataWrite (b : Byte) : PortStep p x (.dataWrite p b) (x.dataWrite b)
  | dataRead : PortStep p x (.dataRead p) x.dataRead
  | strobeConflict : PortStep p x (.strobeConflict p) x.sequenceError
  | portReset (b : Byte) : PortStep p x (.portReset p b) (x.controlWrite (b ||| 1))
  | interruptEnables (b : Byte) : PortStep p x (.interruptEnables p b) (x.controlWrite b)
  | timeout (hseq : x.seq = .collecting) (htimer : x.interByteTimer = true) :
      PortStep p x (.interByteTimerExpiry p) (x.reply [resultByte .timeout])

/-- What an executed row makes of the state. -/
inductive ExecStep (s : State) : Instr → State → Prop
  | partReset (k : CtlSel) : ExecStep s (.partReset k) { State.resetWith k with pending := s.pending }
  | frameStart : ExecStep s .frameStart { s with
      scan := { s.scan with line := 0, blanked := false, selection := selectLine s.display.bands 0 }
      commit := s.commit.frameStart }
  | lineStart : ExecStep s .lineStart (s.startLine s.lineAfter)
  | blankStart : ExecStep s .blankStart s.blankOpened.beginCommit
  | pixelEvent (x : Byte) (v : Bool) : ExecStep s (.pixelEvent x v) { s with
      scan := { s.scan with output := s.scan.output.push (pixelColour s.display s.scan x v) } }
  | commitTimerExpiry {k : Nat} (hrunning : s.commit.timer = .running k) :
      ExecStep s .commitTimerExpiry s.timerExpired.beginCommit
  | batchApplied {b : Batch} {rest : List Batch} (happlying : s.commit.state = .applying)
      (hqueue : s.queue = b :: rest) : ExecStep s .batchApplied (s.applyBatch b rest).continueCommit
  | access {p : Port} {i : Instr} {x : PortState} (h : PortStep p (s.port p) i x) : ExecStep s i (s.setPort p x)
  | command {c : Command} {p : Port} (hgranted : s.grantedPort = some p)
      (hcommand : commandOfByte (byteAt (s.port p).collected 1) = some c) :
      ExecStep s (commandRow c p) (s.deliver p (answerOf c p (s.port p).collected s))

/-- A command row that is executed is granted, is the row of the collected command, and delivers its answer. -/
theorem commandRow_next (h : exec (commandRow c p) s = .next t) :
    s.grantedPort = some p ∧ commandOfByte (byteAt (s.port p).collected 1) = some c ∧
      t = s.deliver p (answerOf c p (s.port p).collected s) :=
  grant_next (exec_commandRow c p s ▸ h)

theorem ExecStep.of_commandRow (h : exec (commandRow c p) s = .next t) : ExecStep s (commandRow c p) t := by
  obtain ⟨hgranted, hcommand, rfl⟩ := commandRow_next h
  exact .command hgranted hcommand

theorem ExecStep.of_commitTimerExpiry (h : execCommitTimerExpiry s = .next t) : ExecStep s .commitTimerExpiry t := by
  unfold execCommitTimerExpiry at h
  split at h
  case h_1 => cases h
  case h_2 hrunning => cases h; exact .commitTimerExpiry hrunning

theorem ExecStep.of_batchApplied (h : execBatchApplied s = .next t) : ExecStep s .batchApplied t := by
  unfold execBatchApplied at h
  split at h
  case h_1 happlying hqueue => cases h; exact .batchApplied happlying hqueue
  case h_2 => cases h

theorem ExecStep.of_interByteTimerExpiry (h : execInterByteTimerExpiry p s = .next t) :
    ExecStep s (.interByteTimerExpiry p) t := by
  unfold execInterByteTimerExpiry at h
  split at h
  case isTrue hrunning => cases h; exact .access (.timeout hrunning.1 hrunning.2)
  case isFalse => cases h

/-- Every executed row does one of these. -/
theorem ExecStep.of_exec (h : exec i s = .next t) : ExecStep s i t := by
  cases i with
  | partReset k => cases h; exact .partReset k
  | frameStart => cases h; exact .frameStart
  | lineStart => cases h; exact .lineStart
  | blankStart => cases h; exact .blankStart
  | pixelEvent x v => cases h; exact .pixelEvent x v
  | commitTimerExpiry => exact .of_commitTimerExpiry h
  | batchApplied => exact .of_batchApplied h
  | interByteTimerExpiry p => exact .of_interByteTimerExpiry h
  | dataWrite p b => cases h; exact .access (.dataWrite b)
  | dataRead p => cases h; exact .access .dataRead
  | strobeConflict p => cases h; exact .access .strobeConflict
  | portReset p b => cases h; exact .access (.portReset b)
  | interruptEnables p b => cases h; exact .access (.interruptEnables b)
  | openMap p => exact .of_commandRow (c := .openMap) h
  | closeMap p => exact .of_commandRow (c := .closeMap) h
  | setFallback p => exact .of_commandRow (c := .setFallback) h
  | mapInfo p => exact .of_commandRow (c := .mapInfo) h
  | allocShared p => exact .of_commandRow (c := .allocShared) h
  | allocPrivate p => exact .of_commandRow (c := .allocPrivate) h
  | allocRange p => exact .of_commandRow (c := .allocRange) h
  | store p => exact .of_commandRow (c := .store) h
  | loadValues p => exact .of_commandRow (c := .loadValues) h
  | release p => exact .of_commandRow (c := .release) h
  | releaseRange p => exact .of_commandRow (c := .releaseRange) h
  | freeze p => exact .of_commandRow (c := .freeze) h
  | queryIndex p => exact .of_commandRow (c := .queryIndex) h
  | findValue p => exact .of_commandRow (c := .findValue) h
  | commitWait p => exact .of_commandRow (c := .commitWait) h
  | getNotice p => exact .of_commandRow (c := .getNotice) h
  | setNotices p => exact .of_commandRow (c := .setNotices) h
  | readState p => exact .of_commandRow (c := .readState) h
  | forceClose p => exact .of_commandRow (c := .forceClose) h
  | setQuota p => exact .of_commandRow (c := .setQuota) h
  | setBand p => exact .of_commandRow (c := .setBand) h
  | setConfig p => exact .of_commandRow (c := .setConfig) h
  | setBlank p => exact .of_commandRow (c := .setBlank) h

/-! ## The step -/

theorem step_of_pending {rest : List Instr} (h : s.pending = i :: rest) :
    step s = exec i { s with pending := rest } := by
  rw [step, h]

theorem step_of_idle (h : s.pending = []) : step s = .next s := by
  rw [step, h]

/-- Settles O1: the two cases of the queue. -/
theorem stepExecutesFrontCommand : Obligations.StepExecutesFrontCommand :=
  ⟨fun _ _ _ => step_of_pending, fun _ => step_of_idle⟩

/-- What a step does: nothing on an empty queue, else the front row on the rest of the queue. -/
theorem step_next (h : step s = .next t) :
    (s.pending = [] ∧ t = s) ∨
      ∃ i rest, s.pending = i :: rest ∧ ExecStep { s with pending := rest } i t := by
  cases hpending : s.pending with
  | nil => rw [step_of_idle hpending] at h; cases h; exact .inl ⟨rfl, rfl⟩
  | cons i rest => exact .inr ⟨i, rest, rfl, .of_exec (step_of_pending hpending ▸ h)⟩

/-- A property of the state but for its queue of commands is kept by every step if it is kept by every
executed row. -/
theorem step_keeps {P : State → Prop} (hpending : ∀ s l, P s → P { s with pending := l })
    (hexec : ∀ s i t, P s → ExecStep s i t → P t) (hs : P s) (h : step s = .next t) : P t := by
  obtain ⟨-, rfl⟩ | ⟨i, rest, -, hstep⟩ := step_next h
  · exact hs
  · exact hexec _ i t (hpending s rest hs) hstep

end Sys2Proof.Machine
end

section
/-! PROOFS. What an accepted command changes (spec/02, spec/03): the working tables in elementary steps, each
with the edits that carry it to the display copies. -/

namespace Sys2Proof.Machine

variable {s t u : State} {p : Port} {n : SlotNo} {i : Nat} {c : CellNo} {v : Colour} {es fs : List Edit}

/-! ## The elementary changes of the working tables -/

/-- One change of the working tables, with the checks that it has passed and the edits that bring the display
copies after it (Table 4-1). -/
inductive TableStep (s : State) : List Edit → State → Prop
  | openMap {n : SlotNo} {p : Port} {size : MapSize} (hclosed : (s.slot n).state = .closed) :
      TableStep s [.mapOpen n size] (s.setSlot n ((s.slot n).openedFor p size))
  | drain {n : SlotNo} (hopen : (s.slot n).state = .opened) (hunbound : ∀ i, s.entry n i = none) :
      TableStep s [.mapClose n] (s.setSlot n { s.slot n with state := .draining })
  | fallback {n : SlotNo} {v : Colour} (hopen : (s.slot n).state = .opened) :
      TableStep s [.mapFallback n v] (s.setSlot n { s.slot n with fallback := v })
  | quota {n : SlotNo} {k : Nat} (hcount : (s.slot n).privCount ≤ k) (hmax : k ≤ 512) :
      TableStep s [] (s.setSlot n { s.slot n with quota := k })
  | bindHeldShared {n : SlotNo} {i : Nat} {c : CellNo} {v : Colour} (hopen : (s.slot n).state = .opened)
      (hi : i < (s.slot n).size.entries) (hunbound : s.entry n i = none) (hlookup : s.lookup v = some c)
      (hholders : s.holders c < 255) :
      TableStep s [.entry n i (some c)] (s.bindHeldShared n i c v)
  | bindNewShared {n : SlotNo} {i : Nat} {c : CellNo} {v : Colour} (hopen : (s.slot n).state = .opened)
      (hi : i < (s.slot n).size.entries) (hunbound : s.entry n i = none) (hlookup : s.lookup v = none)
      (hfree : s.freeList.head? = some c) :
      TableStep s [.cellValue c v, .entry n i (some c)] (s.bindNewShared n i c v)
  | bindPrivate {n : SlotNo} {i : Nat} {c : CellNo} {v : Colour} (hopen : (s.slot n).state = .opened)
      (hi : i < (s.slot n).size.entries) (hunbound : s.entry n i = none)
      (hquota : (s.slot n).privCount + 1 ≤ (s.slot n).quota) (hfree : s.freeList.head? = some c) :
      TableStep s [.cellValue c v, .entry n i (some c)] (s.bindPrivate n i c v)
  | setValue {c : CellNo} {v old : Colour} {m : SlotNo} {j : Nat} (hcell : s.cell c = .priv old m j) :
      TableStep s [.cellValue c v] (s.setPrivValue c v)
  | release {n : SlotNo} {i : Nat} {c : CellNo} (hopen : (s.slot n).state = .opened)
      (hentry : s.entry n i = some c) : TableStep s [.entry n i none] (s.releaseEntry n i)
  | merge {n m : SlotNo} {i j : Nat} {c x : CellNo} {v : Colour} (hopen : (s.slot n).state = .opened)
      (hentry : s.entry n i = some c) (hcell : s.cell c = .priv v m j) (hlookup : s.lookup v = some x)
      (hholders : s.holders x < 255) :
      TableStep s [.entry n i (some x)] (mergeInto s n i c x v)
  | freeze {n m : SlotNo} {i j : Nat} {c : CellNo} {v : Colour} (hopen : (s.slot n).state = .opened)
      (hentry : s.entry n i = some c) (hcell : s.cell c = .priv v m j) (hlookup : s.lookup v = none) :
      TableStep s [] (freezeInPlace s n c v)

/-- Elementary changes one after another. -/
inductive TableSteps : State → List Edit → State → Prop
  | nil {s : State} : TableSteps s [] s
  | cons {s t u : State} {es fs : List Edit} (head : TableStep s es t) (tail : TableSteps t fs u) :
      TableSteps s (es ++ fs) u

theorem TableSteps.single (h : TableStep s es t) : TableSteps s es t := by
  simpa using TableSteps.cons h .nil

theorem TableSteps.append (h : TableSteps s es t) (k : TableSteps t fs u) : TableSteps s (es ++ fs) u := by
  induction h with
  | nil => exact k
  | cons head _ ih => rw [List.append_assoc]; exact .cons head (ih k)

/-- What every elementary change keeps, a succession of them keeps. -/
theorem TableSteps.keeps {P : State → Prop} (hstep : ∀ {s t es}, P s → TableStep s es t → P t)
    (h : TableSteps s es t) (hs : P s) : P t := by
  induction h with
  | nil => exact hs
  | cons head _ ih => exact ih (hstep hs head)

theorem TableStep.tablesOnly (h : TableStep s es t) : TablesOnly s t := by
  cases h with
  | setValue => exact .setPrivValue
  | release => exact .releaseEntry
  | _ => rfl

theorem TableSteps.tablesOnly (h : TableSteps s es t) : TablesOnly s t :=
  h.keeps (P := TablesOnly s) (fun hs hstep => hs.trans hstep.tablesOnly) (.refl s)

/-- No elementary change stages a band (R116). -/
theorem TableStep.band_notMem (h : TableStep s es t) (k : BandNo) (r : Band) : Edit.band k r ∉ es := by
  cases h <;> simp

theorem TableSteps.band_notMem (h : TableSteps s es t) (k : BandNo) (r : Band) : Edit.band k r ∉ es := by
  induction h with
  | nil => simp
  | cons head _ ih => simp [head.band_notMem, ih]

/-! ## The commands that change several entries -/

/-- The state of a slot is kept by the release of an entry. -/
theorem State.state_releaseEntry (m : SlotNo) : ((s.releaseEntry n i).slot m).state = (s.slot m).state := by
  by_cases hm : m = n
  · subst hm
    rw [SlotKept.releaseEntry.slot]
  · rw [SlotKept.releaseEntry.others m hm]

/-- The walk releases one bound entry after another. -/
theorem TableSteps.releaseEntries {is : List Nat} (hopen : (s.slot n).state = .opened) (hnodup : is.Nodup)
    (hbound : ∀ i ∈ is, ∃ c, s.entry n i = some c) :
    TableSteps s (is.map fun i => .entry n i none) (s.releaseEntries n is) := by
  induction is generalizing s with
  | nil => exact .nil
  | cons i is ih =>
    obtain ⟨hi, hnodup⟩ := List.nodup_cons.1 hnodup
    obtain ⟨c, hc⟩ := hbound i List.mem_cons_self
    refine .cons (es := [.entry n i none]) (.release hopen hc)
      (ih (by rwa [State.state_releaseEntry]) hnodup fun j hj => ?_)
    rw [State.entry_releaseEntry, if_neg (ne_of_mem_of_not_mem hj hi)]
    exact hbound j (List.mem_cons_of_mem i hj)

/-- The cells of a range are taken from the head of the free list one after another. -/
theorem TableSteps.bindRange {pairs : List (Nat × CellNo)} (hopen : (s.slot n).state = .opened)
    (hrange : ∀ x ∈ pairs, x.1 < (s.slot n).size.entries) (hnodup : (pairs.map Prod.fst).Nodup)
    (hunbound : ∀ x ∈ pairs, s.entry n x.1 = none)
    (hquota : (s.slot n).privCount + pairs.length ≤ (s.slot n).quota)
    (hfree : pairs.map Prod.snd <+: s.freeList) :
    TableSteps s (rangeEdits n v pairs) (bindRange s n v pairs) := by
  induction pairs generalizing s with
  | nil => exact .nil
  | cons x pairs ih =>
    obtain ⟨hx, hnodup⟩ := List.nodup_cons.1 hnodup
    obtain ⟨rest, hrest⟩ := hfree
    rw [List.length_cons] at hquota
    have hslot : (s.bindPrivate n x.1 x.2 v).slot n = _ := (State.slot_bindPrivate n).trans (if_pos rfl)
    refine .cons (.bindPrivate hopen (hrange x List.mem_cons_self) (hunbound x List.mem_cons_self) (by omega)
      (by simp [← hrest])) (ih ?_ ?_ hnodup ?_ ?_ ?_)
    · rw [hslot]; exact hopen
    · rw [hslot]; exact fun y hy => hrange y (List.mem_cons_of_mem x hy)
    · intro y hy
      have hne : y.1 ≠ x.1 := ne_of_mem_of_not_mem (List.mem_map_of_mem hy) hx
      rw [State.entry_bindPrivate, if_neg fun h => hne h.2.1]
      exact hunbound y (List.mem_cons_of_mem x hy)
    · rw [hslot]; simp only; omega
    · exact ⟨rest, by rw [State.bindPrivate]; simp [State.takeHead, ← hrest]⟩

/-- The values are given to one PRIVATE cell after another. -/
theorem TableSteps.loadAll {pairs : List (CellNo × Colour)} (hpriv : ∀ x ∈ pairs, isPriv s x.1 = true) :
    TableSteps s (loadEdits pairs) (loadAll s pairs) := by
  induction pairs generalizing s with
  | nil => exact .nil
  | cons x pairs ih =>
    have hx := hpriv x List.mem_cons_self
    unfold isPriv at hx
    split at hx
    case h_2 => cases hx
    case h_1 old m j hcell =>
      refine .cons (es := [.cellValue x.1 x.2]) (.setValue hcell) (ih fun y hy => ?_)
      by_cases hyx : y.1 = x.1
      · rw [hyx, isPriv, State.cell_setPrivValue_of_priv hcell]
      · rw [isPriv, State.cell_setPrivValue_of_ne hyx]
        exact hpriv y (List.mem_cons_of_mem x hy)

end Sys2Proof.Machine
end

section
/-! PROOFS. What an acceptance says: the working changes of each command, the batch it stages, and the length of
its result (Tables 6-5 and 7-3). -/

namespace Sys2Proof.Machine

variable {s t u : State} {p : Port} {c : Command} {cmd fields : List Byte} {es : List Edit} {n : SlotNo}

/-! ## The working changes and the batch of an accepted command -/

/-- The working changes of an accepted command, before its batch is appended, and the edits of that batch. -/
inductive WorkingChange (s : State) (p : Port) : Command → State → List Edit → Prop
  | tables {c : Command} {es : List Edit} {u : State} (h : TableSteps s es u) : WorkingChange s p c u es
  | lowCells {c : Command} {es : List Edit} {u : State} (h : TableSteps s es u) :
      WorkingChange s p c (u.raiseIfLow s.freeCount) es
  | close {c : Command} {n : SlotNo} (hopen : (s.slot n).state = .opened) :
      WorkingChange s p c (s.drainSlot n) [.mapClose n]
  | forceClose {c : Command} {n : SlotNo} (hopen : (s.slot n).state = .opened) :
      WorkingChange s p c ((s.drainSlot n).raiseRevoked n (s.slot n).owner) [.mapClose n]
  | notices {c : Command} {l : List Notice} {m : NoticeMask} (h : l.Sublist (s.port p).notices) :
      WorkingChange s p c (s.setPort p ((s.port p).withNotices l m)) []
  | band {k : BandNo} {r : Band} : WorkingChange s p .setBand s [.band k r]
  | config {c : Command} {interval watermark : Nat} (hinterval : interval ≤ 255) (hwatermark : watermark ≤ 512) :
      WorkingChange s p c (s.configure interval watermark) []
  | blank {c : Command} {v : Colour} :
      WorkingChange s p c { s with config := { s.config with blank := v } } [.blank v]

/-- How many edits a batch may have: LOAD_VALUES as many as its count, which the port has judged, another
command 1 to 32 (R75, R125). -/
def batchSize (c : Command) (cmd : List Byte) (k : Nat) : Prop :=
  if c = .loadValues then k = countArg cmd else 1 ≤ k ∧ k ≤ 32

/-- The state that an acceptance shows: the working changes alone, or with one batch that fits (R77, R79). -/
inductive Accepts (s : State) (p : Port) (c : Command) (cmd : List Byte) : State → Prop
  | plain {u : State} (h : WorkingChange s p c u []) : Accepts s p c cmd u
  | batched {u : State} {es : List Edit} (h : WorkingChange s p c u es) (hroom : u.roomFor es.length)
      (hsize : batchSize c cmd es.length) : Accepts s p c cmd (u.appendBatch p es)

theorem Accepts.refl : Accepts s p c cmd s := .plain (.tables .nil)

theorem accepts_of_staged {fs : List Byte} (h : staged u p es fs = .accepted t fields)
    (hchange : WorkingChange s p c u es) (hsize : batchSize c cmd es.length) :
    Accepts s p c cmd t ∧ fields.length = fs.length := by
  obtain ⟨hroom, rfl, rfl⟩ := staged_accepted.1 h
  exact ⟨.batched hchange hroom hsize, rfl⟩

/-! ## Maps -/

theorem answerOpenMap_accepts (h : answerOpenMap p cmd s = .accepted t fields) :
    Accepts s p .openMap cmd t ∧ fields.length = 1 := by
  unfold answerOpenMap at h
  split at h
  case h_1 => cases h
  case h_2 =>
    split at h
    case h_1 => cases h
    case h_2 size _ n hlowest =>
      exact accepts_of_staged h
        (.tables (.single (.openMap (State.lowestClosed_eq_some.1 hlowest).1))) ⟨by simp, by simp⟩

theorem answerCloseMap_accepts (h : answerCloseMap p cmd s = .accepted t fields) :
    Accepts s p .closeMap cmd t ∧ fields.length = 2 := by
  obtain ⟨n, -, h⟩ := withSlot_accepted.1 h
  obtain ⟨hopen, -, h⟩ := ifOwned_accepted.1 h
  exact accepts_of_staged h (.close hopen) ⟨by simp, by simp⟩

theorem answerSetFallback_accepts (h : answerSetFallback p cmd s = .accepted t fields) :
    Accepts s p .setFallback cmd t ∧ fields.length = 0 := by
  obtain ⟨n, -, h⟩ := withSlot_accepted.1 h
  obtain ⟨hopen, -, h⟩ := ifOwned_accepted.1 h
  exact accepts_of_staged h (.tables (.single (.fallback hopen))) ⟨by simp, by simp⟩

theorem answerMapInfo_accepts (h : answerMapInfo p cmd s = .accepted t fields) :
    Accepts s p .mapInfo cmd t ∧ fields.length = 12 := by
  obtain ⟨n, -, h⟩ := withSlot_accepted.1 h
  cases h
  exact ⟨.refl, rfl⟩

theorem answerForceClose_accepts (h : answerForceClose p cmd s = .accepted t fields) :
    Accepts s p .forceClose cmd t ∧ fields.length = 2 := by
  obtain ⟨n, -, h⟩ := withSlot_accepted.1 h
  obtain ⟨-, h⟩ := check_accepted.1 h
  obtain ⟨hopen, h⟩ := check_accepted.1 h
  exact accepts_of_staged h (.forceClose hopen) ⟨by simp, by simp⟩

theorem answerSetQuota_accepts (h : answerSetQuota p cmd s = .accepted t fields) :
    Accepts s p .setQuota cmd t ∧ fields.length = 0 := by
  obtain ⟨n, -, h⟩ := withSlot_accepted.1 h
  obtain ⟨hmax, h⟩ := check_accepted.1 h
  obtain ⟨-, h⟩ := check_accepted.1 h
  obtain ⟨hcount, h⟩ := check_accepted.1 h
  cases h
  exact ⟨.plain (.tables (.single (.quota hcount hmax))), rfl⟩

/-! ## Bindings -/

theorem allocSharedAt_accepts {v : Colour} {i : Nat} (hopen : (s.slot n).state = .opened)
    (hi : i < (s.slot n).size.entries) (hunbound : s.entry n i = none)
    (h : allocSharedAt p n i v s = .accepted t fields) :
    Accepts s p .allocShared cmd t ∧ fields.length = 3 := by
  unfold allocSharedAt at h
  split at h
  case h_1 c hlookup =>
    obtain ⟨hholders, h⟩ := check_accepted.1 h
    exact accepts_of_staged h
      (.tables (.single (.bindHeldShared hopen hi hunbound hlookup hholders))) ⟨by simp, by simp⟩
  case h_2 hlookup =>
    split at h
    case h_1 => cases h
    case h_2 c hfree =>
      exact accepts_of_staged h
        (.lowCells (.single (.bindNewShared hopen hi hunbound hlookup hfree))) ⟨by simp, by simp⟩

theorem answerAllocShared_accepts (h : answerAllocShared p cmd s = .accepted t fields) :
    Accepts s p .allocShared cmd t ∧ fields.length = 3 := by
  obtain ⟨n, -, h⟩ := withSlot_accepted.1 h
  obtain ⟨hopen, -, h⟩ := ifOwned_accepted.1 h
  obtain ⟨hi, h⟩ := ifIndex_accepted.1 h
  obtain ⟨hunbound, h⟩ := check_accepted.1 h
  exact allocSharedAt_accepts hopen hi hunbound h

theorem answerAllocPrivate_accepts (h : answerAllocPrivate p cmd s = .accepted t fields) :
    Accepts s p .allocPrivate cmd t ∧ fields.length = 2 := by
  obtain ⟨n, -, h⟩ := withSlot_accepted.1 h
  obtain ⟨hopen, -, h⟩ := ifOwned_accepted.1 h
  obtain ⟨hi, h⟩ := ifIndex_accepted.1 h
  obtain ⟨hunbound, h⟩ := check_accepted.1 h
  obtain ⟨hquota, h⟩ := check_accepted.1 h
  unfold allocPrivateAt at h
  split at h
  case h_1 => cases h
  case h_2 c hfree =>
    exact accepts_of_staged h
      (.lowCells (.single (.bindPrivate hopen hi hunbound hquota hfree))) ⟨by simp, by simp⟩

theorem State.boundAmong_eq_nil {is : List Nat} : s.boundAmong n is = [] ↔ ∀ i ∈ is, s.entry n i = none := by
  simp [State.boundAmong, List.filter_eq_nil_iff]

theorem answerAllocRange_accepts (h : answerAllocRange p cmd s = .accepted t fields) :
    Accepts s p .allocRange cmd t ∧ fields.length = 0 := by
  obtain ⟨n, -, h⟩ := withSlot_accepted.1 h
  obtain ⟨⟨hone, hmax⟩, h⟩ := check_accepted.1 h
  obtain ⟨hopen, -, h⟩ := ifOwned_accepted.1 h
  obtain ⟨hrange, h⟩ := ifRange_accepted.1 h
  obtain ⟨hunbound, h⟩ := check_accepted.1 h
  obtain ⟨hquota, h⟩ := check_accepted.1 h
  obtain ⟨hcells, h⟩ := check_accepted.1 h
  have hindices := map_fst_rangeCells (first := indexArg cmd) hcells
  have hmem (x) (hx : x ∈ rangeCells s (indexArg cmd) (countArg cmd)) :
      x.1 ∈ List.range' (indexArg cmd) (countArg cmd) := hindices ▸ List.mem_map_of_mem hx
  have hsteps : TableSteps s _ _ := .bindRange (v := colourAt cmd 5) hopen
    (fun x hx => by have := List.mem_range'_1.1 (hmem x hx); omega) (hindices ▸ List.nodup_range')
    (fun x hx => State.boundAmong_eq_nil.1 hunbound x.1 (hmem x hx)) (by rwa [length_rangeCells hcells])
    (map_snd_rangeCells ▸ List.take_prefix ..)
  have hsize : batchSize .allocRange cmd (2 * countArg cmd) :=
    ⟨by omega, by have : countArg cmd ≤ 16 := hmax; omega⟩
  exact accepts_of_staged h (.lowCells hsteps) (by rwa [length_rangeEdits hcells])

theorem isPriv_eq_true {c : CellNo} : isPriv s c = true ↔ ∃ v m j, s.cell c = .priv v m j := by
  unfold isPriv
  cases s.cell c <;> simp

/-- An entry passes step 6 of STORE and FREEZE exactly if it is bound to a PRIVATE cell (R55). -/
theorem State.ownedCell_eq_ok {i : Nat} {d : CellNo} :
    s.ownedCell n i = .ok d ↔ s.entry n i = some d ∧ isPriv s d = true := by
  constructor
  · intro h
    unfold State.ownedCell at h
    split at h
    case h_1 => cases h
    case h_2 hentry =>
      split at h
      case h_1 hcell => cases h; exact ⟨hentry, isPriv_eq_true.2 ⟨_, _, _, hcell⟩⟩
      case h_2 => cases h
  · rintro ⟨hentry, hpriv⟩
    obtain ⟨v, m, j, hcell⟩ := isPriv_eq_true.1 hpriv
    exact State.ownedCell_of_priv hentry hcell

theorem State.ownedCells_ok {is : List Nat} {cs : List CellNo} (h : s.ownedCells n is = .ok cs) :
    cs.length = is.length ∧ ∀ d ∈ cs, isPriv s d = true := by
  induction is generalizing cs with
  | nil => cases h; simp
  | cons i is ih =>
    unfold State.ownedCells at h
    split at h
    case h_1 => cases h
    case h_2 d hd =>
      split at h
      case h_1 => cases h
      case h_2 ds hds =>
        cases h
        obtain ⟨hlength, hpriv⟩ := ih hds
        simpa [hlength, (State.ownedCell_eq_ok.1 hd).2] using hpriv

theorem answerStore_accepts (h : answerStore p cmd s = .accepted t fields) :
    Accepts s p .store cmd t ∧ fields.length = 0 := by
  obtain ⟨n, -, h⟩ := withSlot_accepted.1 h
  obtain ⟨hopen, -, h⟩ := ifOwned_accepted.1 h
  obtain ⟨hi, h⟩ := ifIndex_accepted.1 h
  split at h
  case h_1 => cases h
  case h_2 d howned =>
    obtain ⟨-, hpriv⟩ := State.ownedCell_eq_ok.1 howned
    obtain ⟨v, m, j, hcell⟩ := isPriv_eq_true.1 hpriv
    exact accepts_of_staged h (.tables (.single (.setValue hcell))) ⟨by simp, by simp⟩

theorem answerLoadValues_accepts (h : answerLoadValues p cmd s = .accepted t fields) :
    Accepts s p .loadValues cmd t ∧ fields.length = 0 := by
  obtain ⟨n, -, h⟩ := withSlot_accepted.1 h
  obtain ⟨hopen, -, h⟩ := ifOwned_accepted.1 h
  obtain ⟨hrange, h⟩ := ifRange_accepted.1 h
  split at h
  case h_1 => cases h
  case h_2 cs howned =>
    obtain ⟨hlength, hpriv⟩ := State.ownedCells_ok howned
    exact accepts_of_staged h (.tables (.loadAll fun x hx => hpriv _ (List.of_mem_zip hx).1))
      (by simp [batchSize, loadEdits, hlength, loadColours, State.indexRange])

theorem answerRelease_accepts (h : answerRelease p cmd s = .accepted t fields) :
    Accepts s p .release cmd t ∧ fields.length = 1 := by
  obtain ⟨n, -, h⟩ := withSlot_accepted.1 h
  obtain ⟨hopen, -, h⟩ := ifOwned_accepted.1 h
  obtain ⟨hi, h⟩ := ifIndex_accepted.1 h
  split at h
  case h_1 => cases h
  case h_2 d hentry =>
    exact accepts_of_staged h (.tables (.single (.release hopen hentry)))
      ⟨by simp, by simp⟩

theorem answerReleaseRange_accepts (h : answerReleaseRange p cmd s = .accepted t fields) :
    Accepts s p .releaseRange cmd t ∧ fields.length = 1 := by
  obtain ⟨n, -, h⟩ := withSlot_accepted.1 h
  obtain ⟨⟨-, hmax⟩, h⟩ := check_accepted.1 h
  obtain ⟨hopen, -, h⟩ := ifOwned_accepted.1 h
  obtain ⟨hrange, h⟩ := ifRange_accepted.1 h
  by_cases hnone : s.boundAmong n (State.indexRange (indexArg cmd) (countArg cmd)) = []
  · rw [hnone] at h
    cases h
    exact ⟨.refl, rfl⟩
  · rw [releaseBound_of_ne_nil hnone] at h
    have hlength : (s.boundAmong n (State.indexRange (indexArg cmd) (countArg cmd))).length ≤ countArg cmd := by
      simpa [State.boundAmong, State.indexRange] using
        List.length_filter_le _ (State.indexRange (indexArg cmd) (countArg cmd))
    have hsize : batchSize .releaseRange cmd
        (s.boundAmong n (State.indexRange (indexArg cmd) (countArg cmd))).length :=
      ⟨List.length_pos_iff.2 hnone, by have : countArg cmd ≤ 16 := hmax; omega⟩
    exact accepts_of_staged h
      (.tables (.releaseEntries hopen (State.boundAmong_range_sorted.imp Nat.ne_of_lt) fun i hi =>
        (State.mem_boundAmong.1 hi).2)) (by rwa [List.length_map])

theorem answerFreeze_accepts (h : answerFreeze p cmd s = .accepted t fields) :
    Accepts s p .freeze cmd t ∧ fields.length = 3 := by
  obtain ⟨n, -, h⟩ := withSlot_accepted.1 h
  obtain ⟨hopen, -, h⟩ := ifOwned_accepted.1 h
  obtain ⟨hi, h⟩ := ifIndex_accepted.1 h
  split at h
  case h_1 => cases h
  case h_2 d howned =>
    obtain ⟨hentry, hpriv⟩ := State.ownedCell_eq_ok.1 howned
    obtain ⟨v, m, j, hcell⟩ := isPriv_eq_true.1 hpriv
    rw [State.workingValue_of_priv hcell] at h
    split at h
    case h_1 x hlookup =>
      obtain ⟨hholders, h⟩ := check_accepted.1 h
      exact accepts_of_staged h
        (.tables (.single (.merge hopen hentry hcell hlookup hholders))) ⟨by simp, by simp⟩
    case h_2 hlookup =>
      cases h
      exact ⟨.plain (.tables (.single (.freeze hopen hentry hcell hlookup))), rfl⟩

/-! ## Reports, notices, the screen -/

theorem length_workingReport (s : State) (n : SlotNo) (i : Nat) : (workingReport s n i).length = 6 := by
  unfold workingReport
  split
  case h_1 => rfl
  case h_2 => split <;> rfl

theorem length_displayReport (d : Display) (n : SlotNo) (i : Nat) : (displayReport d n i).length = 6 := by
  unfold displayReport
  split <;> rfl

theorem answerQueryIndex_accepts (h : answerQueryIndex p cmd s = .accepted t fields) :
    Accepts s p .queryIndex cmd t ∧ fields.length = 12 := by
  obtain ⟨n, -, h⟩ := withSlot_accepted.1 h
  obtain ⟨-, h⟩ := check_accepted.1 h
  obtain ⟨-, h⟩ := ifIndex_accepted.1 h
  cases h
  exact ⟨.refl, by rw [List.length_append, length_workingReport, length_displayReport]⟩

theorem answerFindValue_accepts (h : answerFindValue p cmd s = .accepted t fields) :
    Accepts s p .findValue cmd t ∧ fields.length = 4 := by
  cases h
  refine ⟨.refl, ?_⟩
  unfold findFields
  split <;> rfl

theorem answerReadState_accepts (h : answerReadState p cmd s = .accepted t fields) :
    Accepts s p .readState cmd t ∧ fields.length = 13 := by
  cases h
  exact ⟨.refl, rfl⟩

theorem answerCommitWait_accepts (h : answerCommitWait p cmd s = .accepted t fields) :
    Accepts s p .commitWait cmd t ∧ fields.length = 2 := by
  unfold answerCommitWait at h
  split at h
  case h_1 => cases h
  case h_2 => cases h; exact ⟨.refl, rfl⟩

theorem answerGetNotice_accepts (h : answerGetNotice p cmd s = .accepted t fields) :
    Accepts s p .getNotice cmd t ∧ fields.length = 3 := by
  cases hset : (s.port p).notices with
  | nil => rw [answerGetNotice_empty hset] at h; cases h; exact ⟨.refl, rfl⟩
  | cons x rest =>
    rw [answerGetNotice_oldest hset] at h
    cases h
    exact ⟨.plain (.notices (hset ▸ List.sublist_cons_self x rest)), by cases x <;> rfl⟩

theorem answerSetNotices_accepts (h : answerSetNotices p cmd s = .accepted t fields) :
    Accepts s p .setNotices cmd t ∧ fields.length = 0 := by
  cases h
  exact ⟨.plain (.notices (List.Sublist.refl _)), rfl⟩

theorem answerSetBand_accepts (h : answerSetBand p cmd s = .accepted t fields) :
    Accepts s p .setBand cmd t ∧ fields.length = 0 := by
  unfold answerSetBand at h
  split at h
  case h_1 => cases h
  case h_2 k _ =>
    obtain ⟨-, h⟩ := check_accepted.1 h
    obtain ⟨n, -, h⟩ := withSlot_accepted.1 h
    obtain ⟨-, h⟩ := check_accepted.1 h
    exact accepts_of_staged h .band ⟨by simp, by simp⟩

theorem answerSetConfig_accepts (h : answerSetConfig p cmd s = .accepted t fields) :
    Accepts s p .setConfig cmd t ∧ fields.length = 0 := by
  obtain ⟨hmax, h⟩ := check_accepted.1 h
  obtain ⟨-, h⟩ := check_accepted.1 h
  cases h
  exact ⟨.plain (.config (by omega) hmax), rfl⟩

theorem answerSetBlank_accepts (h : answerSetBlank p cmd s = .accepted t fields) :
    Accepts s p .setBlank cmd t ∧ fields.length = 0 := by
  obtain ⟨-, h⟩ := check_accepted.1 h
  exact accepts_of_staged h .blank ⟨by simp, by simp⟩

/-! ## Every command -/

/-- An acceptance shows the working changes of its command with its batch, and a result of the length of
Table 6-5. -/
theorem answerOf_accepts (h : answerOf c p cmd s = .accepted t fields) :
    Accepts s p c cmd t ∧ fields.length + 1 = okLength c := by
  have hlength {k : Nat} (h : Accepts s p c cmd t ∧ fields.length = k) (hk : k + 1 = okLength c) :
      Accepts s p c cmd t ∧ fields.length + 1 = okLength c := ⟨h.1, by rw [h.2, hk]⟩
  cases c with
  | openMap => exact hlength (answerOpenMap_accepts h) rfl
  | closeMap => exact hlength (answerCloseMap_accepts h) rfl
  | setFallback => exact hlength (answerSetFallback_accepts h) rfl
  | mapInfo => exact hlength (answerMapInfo_accepts h) rfl
  | allocShared => exact hlength (answerAllocShared_accepts h) rfl
  | allocPrivate => exact hlength (answerAllocPrivate_accepts h) rfl
  | allocRange => exact hlength (answerAllocRange_accepts h) rfl
  | store => exact hlength (answerStore_accepts h) rfl
  | loadValues => exact hlength (answerLoadValues_accepts h) rfl
  | release => exact hlength (answerRelease_accepts h) rfl
  | releaseRange => exact hlength (answerReleaseRange_accepts h) rfl
  | freeze => exact hlength (answerFreeze_accepts h) rfl
  | queryIndex => exact hlength (answerQueryIndex_accepts h) rfl
  | findValue => exact hlength (answerFindValue_accepts h) rfl
  | commitWait => exact hlength (answerCommitWait_accepts h) rfl
  | getNotice => exact hlength (answerGetNotice_accepts h) rfl
  | setNotices => exact hlength (answerSetNotices_accepts h) rfl
  | readState => exact hlength (answerReadState_accepts h) rfl
  | forceClose => exact hlength (answerForceClose_accepts h) rfl
  | setQuota => exact hlength (answerSetQuota_accepts h) rfl
  | setBand => exact hlength (answerSetBand_accepts h) rfl
  | setConfig => exact hlength (answerSetConfig_accepts h) rfl
  | setBlank => exact hlength (answerSetBlank_accepts h) rfl

end Sys2Proof.Machine
end

section
/-! PROOFS. What every execution of the engine keeps, how it answers (R129, R132, R151), and the batch it may
append (R75, R77, R79). -/

namespace Sys2Proof.Machine

variable {s t u : State} {p q : Port} {c : Command} {cmd fields : List Byte} {es : List Edit} {n : SlotNo}
  {code : ResultCode} {k : Answer}

/-! ## What the working changes of a command keep -/

/-- The ports differ in their notice sets at most, and port `p` in its mask too; a set that holds at most one
notice of each kind still does. -/
structure NoticesOnly (s u : State) (p : Port) : Prop where
  port : ∀ q, u.port q = { s.port q with notices := (u.port q).notices, mask := (u.port q).mask }
  mask : (u.port p.other).mask = (s.port p.other).mask
  nodup : ∀ q, ((s.port q).notices.map noticeKind).Nodup → ((u.port q).notices.map noticeKind).Nodup

theorem NoticesOnly.of_eq (h : ∀ q, u.port q = s.port q) : NoticesOnly s u p where
  port q := by rw [h]
  mask := by rw [h]
  nodup q hq := by rwa [h]

/-- The notices are raised at some ports, or none. -/
theorem NoticesOnly.of_takeRaise {x : Notice} {P : Port → Prop} [DecidablePred P]
    (h : ∀ q, u.port q = { s.port q with
      notices := if P q then takeRaise (s.port q).mask (s.port q).notices x else (s.port q).notices }) :
    NoticesOnly s u p where
  port q := by rw [h]
  mask := by rw [h]
  nodup q hq := by
    rw [h]
    dsimp only
    split
    · exact takeRaise_nodup _ _ _ hq
    · exact hq

theorem State.port_raiseRevoked (o : Option Port) (q : Port) :
    (s.raiseRevoked n o).port q = { s.port q with
      notices := if o = some q then takeRaise (s.port q).mask (s.port q).notices (.mapRevoked (slotBit n))
        else (s.port q).notices } := by
  cases o with
  | none => rfl
  | some o =>
    rw [State.raiseRevoked, State.port_raise]
    by_cases h : q = o
    · subst h; simp
    · simp [h, Ne.symm h]

theorem WorkingChange.noticesOnly (h : WorkingChange s p c u es) : NoticesOnly s u p := by
  cases h with
  | tables h => exact .of_eq h.tablesOnly.port
  | lowCells h =>
    exact .of_takeRaise fun q => by rw [State.port_raiseIfLow, h.tablesOnly.port]
  | close => exact .of_eq fun q => by simp
  | forceClose => exact .of_takeRaise fun q => by rw [State.port_raiseRevoked, State.drainSlot_port]
  | notices h =>
    refine ⟨fun q => ?_, by simp, fun q hq => ?_⟩
    · rw [State.port_setPort]
      split
      · subst q; rfl
      · rfl
    · rw [State.port_setPort]
      split
      · subst q; exact hq.sublist (h.map noticeKind)
      · exact hq
  | band => exact .of_eq fun _ => rfl
  | config => exact .of_eq fun q => by simp
  | blank => exact .of_eq fun q => by cases q <;> rfl

/-- What no working change of a command touches. -/
structure UntouchedByEngine (s u : State) : Prop where
  display : u.display = s.display
  scan : u.scan = s.scan
  controlPort : u.controlPort = s.controlPort
  pending : u.pending = s.pending
  queue : u.queue = s.queue
  nextBatch : u.nextBatch = s.nextBatch

theorem UntouchedByEngine.of_tablesOnly (h : TablesOnly s u) : UntouchedByEngine s u :=
  ⟨h.display, h.scan, h.controlPort, h.pending, h.queue, h.nextBatch⟩

theorem UntouchedByEngine.trans (h : UntouchedByEngine s t) (h' : UntouchedByEngine t u) : UntouchedByEngine s u :=
  ⟨h'.display.trans h.display, h'.scan.trans h.scan, h'.controlPort.trans h.controlPort,
    h'.pending.trans h.pending, h'.queue.trans h.queue, h'.nextBatch.trans h.nextBatch⟩

theorem WorkingChange.untouched (h : WorkingChange s p c u es) : UntouchedByEngine s u := by
  cases h with
  | tables h => exact .of_tablesOnly h.tablesOnly
  | lowCells h => exact (UntouchedByEngine.of_tablesOnly h.tablesOnly).trans (by constructor <;> simp)
  | _ => constructor <;> simp

/-! ## The queue after an acceptance -/

theorem State.roomFor_iff_of_queue {k : Nat} (h : u.queue = s.queue) : u.roomFor k ↔ hasRoom s k := by
  simp [State.roomFor, State.batchesUsed, State.editsUsed, editsIn, h]

/-- What an acceptance makes of the queue: nothing, or one batch that fits (R77, R79). -/
theorem Accepts.queue (h : Accepts s p c cmd t) :
    (t.queue = s.queue ∧ t.nextBatch = s.nextBatch) ∨
      ∃ es, t.queue = s.queue ++ [⟨s.nextBatch, p, es⟩] ∧ t.nextBatch = nextNumber s.nextBatch ∧
        hasRoom s es.length ∧ batchSize c cmd es.length := by
  cases h with
  | plain h => exact .inl ⟨h.untouched.queue, h.untouched.nextBatch⟩
  | @batched u es h hroom hsize =>
    have hu := h.untouched
    exact .inr ⟨es, by simp [hu.queue, hu.nextBatch], by simp [hu.nextBatch],
      (State.roomFor_iff_of_queue hu.queue).1 hroom, hsize⟩

theorem Accepts.noticesOnly (h : Accepts s p c cmd t) : NoticesOnly s t p := by
  cases h with
  | plain h => exact h.noticesOnly
  | batched h => exact ⟨by simpa using h.noticesOnly.port, by simpa using h.noticesOnly.mask,
      by simpa using h.noticesOnly.nodup⟩

theorem Accepts.display (h : Accepts s p c cmd t) : t.display = s.display := by
  cases h with
  | plain h => exact h.untouched.display
  | batched h => exact h.untouched.display

theorem Accepts.scan (h : Accepts s p c cmd t) : t.scan = s.scan := by
  cases h with
  | plain h => exact h.untouched.scan
  | batched h => exact h.untouched.scan

theorem Accepts.engineFrame (h : Accepts s p c cmd t) (fields : List Byte) :
    EngineFrame s (s.deliver p (.accepted t fields)) p := by
  have hother : t.port p.other = { s.port p.other with notices := (t.port p.other).notices } := by
    rw [h.noticesOnly.port, h.noticesOnly.mask]
  refine .of_deliver_accepted fields h.display h.scan ?_ ?_ hother
  · cases h with
    | plain h => exact h.untouched.controlPort
    | batched h => exact h.untouched.controlPort
  · cases h with
    | plain h => exact h.untouched.pending
    | batched h => exact h.untouched.pending

/-! ## The other answers -/

/-- An acceptance, or a refusal with another code than that of OK; not a fence. -/
def Answer.Usual : Answer → Prop
  | .refusal code => code ≠ .ok
  | .accepted _ _ => True
  | .fence _ => False

theorem refusal_usual (h : code ≠ .ok) : (Answer.refusal code).Usual := h

theorem accepted_usual : (Answer.accepted t fields).Usual := trivial

theorem check_usual {P : Prop} [Decidable P] (hcode : code ≠ .ok) (hk : k.Usual) : (check P code k).Usual := by
  unfold check
  split
  · exact hk
  · exact hcode

theorem withSlot_usual {b : Byte} {f : SlotNo → Answer} (h : ∀ n, (f n).Usual) : (withSlot b f).Usual := by
  unfold withSlot
  split
  · exact refusal_usual nofun
  · exact h _

theorem ifOwned_usual (hk : k.Usual) : (ifOwned s p n k).Usual := check_usual nofun (check_usual nofun hk)

theorem ifIndex_usual {i : Nat} (hk : k.Usual) : (ifIndex s n i k).Usual := check_usual nofun hk

theorem ifRange_usual {i j : Nat} (hk : k.Usual) : (ifRange s n i j k).Usual := check_usual nofun hk

theorem staged_usual : (staged u p es fields).Usual := check_usual nofun accepted_usual

theorem State.ownedCell_error {i : Nat} (h : s.ownedCell n i = .error code) : code ≠ .ok := by
  unfold State.ownedCell at h
  split at h
  · cases h; nofun
  · split at h <;> cases h; nofun

theorem State.ownedCells_error {is : List Nat} (h : s.ownedCells n is = .error code) : code ≠ .ok := by
  induction is with
  | nil => cases h
  | cons i is ih =>
    unfold State.ownedCells at h
    split at h
    case h_1 hcode => cases h; exact State.ownedCell_error hcode
    case h_2 =>
      split at h
      case h_1 hcode => cases h; exact ih hcode
      case h_2 => cases h

theorem allocSharedAt_usual {i : Nat} {v : Colour} : (allocSharedAt p n i v s).Usual := by
  unfold allocSharedAt
  split
  · exact check_usual nofun staged_usual
  · split
    · exact refusal_usual nofun
    · exact staged_usual

theorem allocPrivateAt_usual {i : Nat} {v : Colour} : (allocPrivateAt p n i v s).Usual := by
  unfold allocPrivateAt
  split
  · exact refusal_usual nofun
  · exact staged_usual

theorem releaseBound_usual {is : List Nat} : (releaseBound p n is s).Usual := by
  cases is with
  | nil => exact accepted_usual
  | cons => exact staged_usual

theorem answerOpenMap_usual : (answerOpenMap p cmd s).Usual := by
  unfold answerOpenMap
  split
  · exact refusal_usual nofun
  · split
    · exact refusal_usual nofun
    · exact staged_usual

theorem answerSetBand_usual : (answerSetBand p cmd s).Usual := by
  unfold answerSetBand
  split
  · exact refusal_usual nofun
  · exact check_usual nofun <| withSlot_usual fun n => check_usual nofun staged_usual

theorem answerGetNotice_usual : (answerGetNotice p cmd s).Usual := by
  unfold answerGetNotice
  split <;> exact accepted_usual

theorem answerStore_usual : (answerStore p cmd s).Usual := by
  refine withSlot_usual fun n => ifOwned_usual <| ifIndex_usual ?_
  split
  case h_1 hcode => exact State.ownedCell_error hcode
  case h_2 => exact staged_usual

theorem answerLoadValues_usual : (answerLoadValues p cmd s).Usual := by
  refine withSlot_usual fun n => ifOwned_usual <| ifRange_usual ?_
  split
  case h_1 hcode => exact State.ownedCells_error hcode
  case h_2 => exact staged_usual

theorem answerRelease_usual : (answerRelease p cmd s).Usual := by
  refine withSlot_usual fun n => ifOwned_usual <| ifIndex_usual ?_
  split
  · exact refusal_usual nofun
  · exact staged_usual

theorem answerFreeze_usual : (answerFreeze p cmd s).Usual := by
  refine withSlot_usual fun n => ifOwned_usual <| ifIndex_usual ?_
  split
  case h_1 hcode => exact State.ownedCell_error hcode
  case h_2 =>
    split
    · exact check_usual nofun staged_usual
    · exact accepted_usual

/-- No command but COMMIT_WAIT answers with a fence, and no refusal has the code of OK (Table 7-4). -/
theorem answerOf_usual (hc : c ≠ .commitWait) : (answerOf c p cmd s).Usual := by
  cases c with
  | openMap => exact answerOpenMap_usual
  | closeMap => exact withSlot_usual fun n => ifOwned_usual staged_usual
  | setFallback => exact withSlot_usual fun n => ifOwned_usual staged_usual
  | mapInfo => exact withSlot_usual fun n => accepted_usual
  | allocShared =>
    exact withSlot_usual fun n => ifOwned_usual <| ifIndex_usual <| check_usual nofun allocSharedAt_usual
  | allocPrivate =>
    exact withSlot_usual fun n => ifOwned_usual <| ifIndex_usual <| check_usual nofun <|
      check_usual nofun allocPrivateAt_usual
  | allocRange =>
    exact withSlot_usual fun n => check_usual nofun <| ifOwned_usual <| ifRange_usual <|
      check_usual nofun <| check_usual nofun <| check_usual nofun staged_usual
  | store => exact answerStore_usual
  | loadValues => exact answerLoadValues_usual
  | release => exact answerRelease_usual
  | releaseRange =>
    exact withSlot_usual fun n => check_usual nofun <| ifOwned_usual <| ifRange_usual releaseBound_usual
  | freeze => exact answerFreeze_usual
  | queryIndex => exact withSlot_usual fun n => check_usual nofun <| ifIndex_usual accepted_usual
  | findValue => exact accepted_usual
  | commitWait => exact absurd rfl hc
  | getNotice => exact answerGetNotice_usual (cmd := cmd)
  | setNotices => exact accepted_usual
  | readState => exact accepted_usual
  | forceClose => exact withSlot_usual fun n => check_usual nofun <| check_usual nofun staged_usual
  | setQuota =>
    exact withSlot_usual fun n => check_usual nofun <| check_usual nofun <| check_usual nofun accepted_usual
  | setBand => exact answerSetBand_usual
  | setConfig => exact check_usual nofun <| check_usual nofun accepted_usual
  | setBlank => exact check_usual nofun staged_usual

/-- How the engine answers: a refusal with another code than that of OK, an acceptance, or, for COMMIT_WAIT,
the fence of the newest batch of the port (R129, R97). -/
theorem answerOf_cases (c : Command) (p : Port) (cmd : List Byte) (s : State) :
    (∃ code, code ≠ .ok ∧ answerOf c p cmd s = .refusal code) ∨
      (∃ t fields, answerOf c p cmd s = .accepted t fields) ∨
      (c = .commitWait ∧ ∃ b, s.newestBatchOf p = some b ∧ answerOf c p cmd s = .fence b.number) := by
  by_cases hc : c = .commitWait
  · subst hc
    cases hnewest : s.newestBatchOf p with
    | none => exact .inr (.inl ⟨_, _, answerCommitWait_accepted (cmd := cmd) hnewest⟩)
    | some b => exact .inr (.inr ⟨rfl, b, rfl, answerCommitWait_fence (cmd := cmd) hnewest⟩)
  · have husual := answerOf_usual (p := p) (cmd := cmd) (s := s) hc
    cases hanswer : answerOf c p cmd s with
    | refusal code => rw [hanswer] at husual; exact .inl ⟨code, husual, rfl⟩
    | accepted t fields => exact .inr (.inl ⟨t, fields, rfl⟩)
    | fence number => rw [hanswer] at husual; exact husual.elim

/-! ## Every grant is answered (R129, R132, R151) -/

theorem engineFrame_deliver_fence (s : State) (p : Port) (number : Nat) :
    EngineFrame s (s.deliver p (.fence number)) p := by
  cases p <;> exact ⟨rfl, rfl, rfl, rfl, rfl⟩

theorem engineFrame_deliver (c : Command) (p : Port) (cmd : List Byte) (s : State) :
    EngineFrame s (s.deliver p (answerOf c p cmd s)) p := by
  obtain ⟨code, -, hanswer⟩ | ⟨t, fields, hanswer⟩ | ⟨-, b, -, hanswer⟩ := answerOf_cases c p cmd s <;> rw [hanswer]
  · exact (s.deliver_refusal p code).frame
  · exact (answerOf_accepts hanswer).1.engineFrame fields
  · exact engineFrame_deliver_fence s p b.number

theorem Granted.exec {cmd : List Byte} (h : Granted s p cmd) (hc : byteAt cmd 1 = codeOf c) :
    exec (commandRow c p) s = .next (s.deliver p (answerOf c p cmd s)) :=
  (exec_commandRow c p s).trans (h.grant (commandOfByte_eq_some.2 hc) _)

/-- Settles O55: the answer is a refusal, an acceptance or a fence, and each is delivered. -/
theorem everyGrantIsAnswered : Obligations.EveryGrantIsAnswered := by
  intro c p s cmd hgrant hcode
  refine ⟨_, hgrant.exec hcode, s.deliver_lastGranted p _, engineFrame_deliver c p cmd s, ?_⟩
  obtain ⟨code, hne, hanswer⟩ | ⟨t, fields, hanswer⟩ | ⟨hc, b, -, hanswer⟩ := answerOf_cases c p cmd s <;> rw [hanswer]
  · exact .inl ⟨code, hne, s.deliver_refusal p code⟩
  · obtain ⟨haccepts, hlength⟩ := answerOf_accepts hanswer
    exact .inr (.inl ⟨fields, hlength, .of_deliver_accepted (haccepts.noticesOnly.port p) fields⟩)
  · refine .inr (.inr ⟨hc, ?_, ?_⟩) <;> rw [State.port_deliver_fence] <;> rfl

end Sys2Proof.Machine
end

section
/-! PROOFS. The part reset (spec/06, R120) and the invariants after it. -/

namespace Sys2Proof.Machine

variable {k : CtlSel}

theorem exec_partReset (k : CtlSel) (s : State) :
    exec (.partReset k) s = .next { State.resetWith k with pending := s.pending } := rfl

/-! ## The reset values, item by item -/

@[simp] theorem State.cell_resetWith (c : CellNo) : (State.resetWith k).cell c = .free := by
  simp [State.resetWith, State.cell]

@[simp] theorem State.slot_resetWith (n : SlotNo) : (State.resetWith k).slot n = .reset := by
  simp [State.resetWith, State.slot]

@[simp] theorem State.port_resetWith (p : Port) : (State.resetWith k).port p = .reset := by
  cases p <;> rfl

@[simp] theorem State.entry_resetWith (n : SlotNo) (i : Nat) : (State.resetWith k).entry n i = none := by
  simp [State.entry, Slot.reset]

theorem State.freeList_resetWith (k : CtlSel) : (State.resetWith k).freeList = List.finRange 512 := by
  rw [State.resetWith]

theorem controlPortOf_eq (k : CtlSel) : controlPortOf k = if k = .low then .a else .b := by
  cases k <;> rfl

/-- Settles O2: the state after the row is resetWith but for the queue of commands. -/
theorem partResetRestoresResetValues : Obligations.PartResetRestoresResetValues := by
  intro k s
  refine ⟨_, exec_partReset k s, fun c => ?cell, ?freeList, rfl, fun n => ?slot, rfl, rfl, rfl, rfl, rfl,
    fun c => ?cells, fun n => ?slots, fun b => ?bands, rfl, rfl, rfl, rfl, fun p => ?ports,
    controlPortOf_eq k, rfl⟩
  case cell => simp [State.cell, State.resetWith]
  case freeList => simp only [State.freeList_resetWith, List.map_coe_finRange_eq_range]
  case slot => simp [State.slot, State.resetWith, Slot.reset, Colour.black]
  case cells => exact Vector.getElem_replicate ..
  case slots => exact Vector.getElem_replicate ..
  case bands => exact Vector.getElem_replicate ..
  case ports => cases p <;> rfl

/-! ## The invariants -/

theorem portOk_reset : PortOk .reset where
  collected := rfl
  timer := rfl
  request := rfl
  fence := rfl
  result := rfl
  unread := rfl
  notices := List.nodup_nil

theorem portsOk_resetWith (k : CtlSel) : PortsOk (State.resetWith k) := ⟨portOk_reset, portOk_reset⟩

theorem queueOk_resetWith (k : CtlSel) : QueueOk (State.resetWith k) where
  batches := Nat.zero_le _
  edits := Nat.zero_le _
  sizes := nofun
  numbers := rfl
  mark := Nat.zero_le _
  applying := nofun
  fences := fun p => by cases p <;> nofun

theorem configOk_resetWith (k : CtlSel) : ConfigOk (State.resetWith k) where
  interval := (by decide : 40 ≤ 255)
  watermark := Nat.zero_le _
  timer := rfl
  line := Nat.zero_le _

theorem boundCount_resetWith (c : CellNo) : boundCount (State.resetWith k) c = 0 := by
  simp [boundCount, Slot.reset]

theorem cellsOk_resetWith (k : CtlSel) : CellsOk (State.resetWith k) where
  cells c := by
    simp [cellOk, State.freeList_resetWith, boundCount_resetWith]
  freeNodup := State.freeList_resetWith k ▸ List.nodup_finRange 512
  pairs := nofun
  sorted := List.Pairwise.nil
  values := List.nodup_nil

theorem slotOk_resetWith (k : CtlSel) (n : SlotNo) : SlotOk (State.resetWith k) n where
  state := by rw [State.slot_resetWith]; rfl
  privCount := by rw [State.slot_resetWith]; rfl
  sharedCount := by rw [State.slot_resetWith]; rfl
  quota := by rw [State.slot_resetWith]; exact ⟨Nat.zero_le _, Nat.le_refl _⟩

theorem tablesOk_resetWith (k : CtlSel) : TablesOk (State.resetWith k) :=
  ⟨cellsOk_resetWith k, slotOk_resetWith k⟩

theorem drainingOk_resetWith (k : CtlSel) : DrainingOk (State.resetWith k) := fun n => by
  rw [State.slot_resetWith]; rfl

/-- The queue is empty and the display copies hold the reset values, which agree with the tables. -/
theorem displayFollows_resetWith (k : CtlSel) : DisplayFollows (State.resetWith k) where
  slots n := by
    have hshown : (State.resetWith k).display.slots[n] = .reset := Vector.getElem_replicate ..
    change slotMatches _ (State.resetWith k).display.slots[n]
    rw [hshown, State.slot_resetWith]
    exact ⟨rfl, fun e he => List.eq_of_mem_replicate he⟩
  blank := rfl
  cells n i c h := by simp at h

/-- Settles O3: the invariants one by one. -/
theorem resetMeetsInvariants : Obligations.ResetMeetsInvariants := fun k =>
  ⟨portsOk_resetWith k, queueOk_resetWith k, configOk_resetWith k, tablesOk_resetWith k, drainingOk_resetWith k,
    displayFollows_resetWith k⟩

end Sys2Proof.Machine
end

section
/-! PROOFS. What a port holds in each sequencer state is kept by every access at it (spec/06, R121 to R126,
R131 to R139). -/

namespace Sys2Proof.Machine

variable {x y : PortState} {p : Port} {b : Byte} {c : Command} {cmd : List Byte} {expected : Option Nat} {i : Instr}

/-! ## The collected bytes -/

theorem byteAt_append {n : Nat} (h : n - 1 < cmd.length) : byteAt (cmd ++ [b]) n = byteAt cmd n := by
  simp [byteAt, List.getElem?_append_left h]

theorem byteAt_append_last {n : Nat} (h : n - 1 = cmd.length) : byteAt (cmd ++ [b]) n = b := by
  simp [byteAt, h]

theorem commandLength_pos {n : Nat} (h : commandLength c = some n) : 1 ≤ n := by
  cases c <;> simp [commandLength] at h <;> omega

/-- The bytes of a command in COLLECTING, by whether its code fixes the length (R123, R125). -/
theorem collectedPart_iff : collectedPart cmd expected = true ↔ cmd ≠ [] ∧
    ∃ c, commandOfByte (byteAt cmd 1) = some c ∧
      ((∃ n, commandLength c = some n ∧ expected = some n ∧ cmd.length < n) ∨
        (commandLength c = none ∧ loadPartial cmd expected)) := by
  unfold collectedPart
  cases hc : commandOfByte (byteAt cmd 1) with
  | none => simp
  | some c =>
    cases hn : commandLength c with
    | none => simp [hn]
    | some n => simp [hn]; tauto

/-- The bytes of a command in PENDING, likewise. -/
theorem collectedWhole_iff : collectedWhole cmd expected = true ↔
    ∃ c, commandOfByte (byteAt cmd 1) = some c ∧
      ((∃ n, commandLength c = some n ∧ expected = some n ∧ cmd.length = n) ∨
        (commandLength c = none ∧ loadWhole cmd expected)) := by
  unfold collectedWhole
  cases hc : commandOfByte (byteAt cmd 1) with
  | none => simp
  | some c =>
    cases hn : commandLength c with
    | none => simp [hn]
    | some n =>
      simp only [hn, decide_eq_true_eq, Option.some.injEq, exists_eq_left', reduceCtorEq, false_and, or_false]

/-- A whole LOAD_VALUES has a count that the port has judged (R125). -/
theorem PortOk.rangeCountOk_of_loadValues (h : PortOk x) (hrequest : x.request = true)
    (hc : commandOfByte (byteAt x.collected 1) = some .loadValues) : rangeCountOk (countArg x.collected) := by
  have hseq : x.seq = .pending := by simpa [hrequest] using h.request
  have hwhole : collectedWhole x.collected x.expected = true := by simpa only [seqOk, hseq] using h.collected
  obtain ⟨c, hc', ⟨n, hn, -⟩ | ⟨-, hcount, -⟩⟩ := collectedWhole_iff.1 hwhole
  · obtain rfl : c = .loadValues := Option.some.inj (hc'.symm.trans hc)
    cases hn
  · exact hcount

/-! ## A port in one sequencer state -/

theorem PortOk.of_collecting (h : PortOk x) (hseq : x.seq = .collecting) (hpart : collectedPart cmd expected = true) :
    PortOk { x with collected := cmd, expected := expected, interByteTimer := true } where
  collected := by simpa only [seqOk, hseq] using hpart
  timer := by simp [hseq]
  request := h.request
  fence := h.fence
  result := h.result
  unread := h.unread
  notices := h.notices

theorem PortOk.of_pending (h : PortOk x) (hseq : x.seq = .collecting) (hwhole : collectedWhole cmd expected = true) :
    PortOk { x with collected := cmd, expected := expected, interByteTimer := true }.toPending where
  collected := hwhole
  timer := rfl
  request := rfl
  fence := by simpa [hseq, PortState.toPending] using h.fence
  result := by simpa [hseq, PortState.toPending] using h.result
  unread := h.unread
  notices := h.notices

/-- A port that changes in its notices and its mask alone. -/
theorem PortOk.of_notices (h : PortOk x) (hy : y = { x with notices := y.notices, mask := y.mask })
    (hnodup : (y.notices.map noticeKind).Nodup) : PortOk y := by
  rw [hy]
  exact ⟨h.collected, h.timer, h.request, h.fence, h.result, h.unread, hnodup⟩

theorem PortOk.sequenceError (h : PortOk x) : PortOk x.sequenceError :=
  ⟨h.collected, h.timer, h.request, h.fence, h.result, h.unread, h.notices⟩

theorem PortOk.readOutOfPhase (h : PortOk x) : PortOk x.readOutOfPhase :=
  ⟨h.collected, h.timer, h.request, h.fence, h.result, h.unread, h.notices⟩

theorem PortOk.setEnables (h : PortOk x) : PortOk (x.setEnables b) :=
  ⟨h.collected, h.timer, h.request, h.fence, h.result, h.unread, h.notices⟩

theorem portOk_portReset (x : PortState) : PortOk x.portReset :=
  ⟨rfl, rfl, rfl, rfl, rfl, rfl, List.nodup_nil⟩

theorem PortOk.controlWrite (h : PortOk x) : PortOk (x.controlWrite b) := by
  unfold PortState.controlWrite
  split
  · exact portOk_portReset _
  · exact h.setEnables

theorem PortOk.reply {bytes : List Byte} (h : PortOk x) (h1 : 1 ≤ bytes.length) (h2 : bytes.length ≤ 14) :
    PortOk (x.reply bytes) :=
  PortState.reply_ok h.notices h1 h2

theorem PortOk.fenceEvent {number : Nat} (h : PortOk x) : PortOk (x.fenceEvent number) := by
  unfold PortState.fenceEvent
  split
  · exact h.reply (Nat.le_add_left 1 2) (Nat.le_add_left 3 11)
  · exact h

/-! ## A data write in IDLE (R123) -/

theorem PortState.beginCommand_none (h : commandOfByte b = none) :
    x.beginCommand b = { x with seqErr := false }.reply [0x01] := by
  simp only [PortState.beginCommand, h]
  rfl

theorem PortState.beginCommand_one (h : commandOfByte b = some c) (hlength : commandLength c = some 1) :
    x.beginCommand b = { x with seqErr := false, collected := [b], expected := some 1 }.toPending := by
  simp [PortState.beginCommand, h, hlength]

theorem PortState.beginCommand_more (h : commandOfByte b = some c) (hlength : commandLength c ≠ some 1) :
    x.beginCommand b = { x with
      seqErr := false, collected := [b], expected := commandLength c, seq := .collecting
      interByteTimer := true } := by
  simp [PortState.beginCommand, h, hlength]

theorem PortOk.beginCommand (h : PortOk x) (hseq : x.seq = .idle) : PortOk (x.beginCommand b) := by
  cases hc : commandOfByte b with
  | none =>
    rw [PortState.beginCommand_none hc]
    exact PortState.reply_ok h.notices (by decide) (by decide)
  | some c =>
    by_cases hlength : commandLength c = some 1
    · rw [PortState.beginCommand_one hc hlength]
      exact {
        collected := collectedWhole_iff.2 ⟨c, hc, .inl ⟨1, hlength, rfl, rfl⟩⟩
        timer := rfl
        request := rfl
        fence := by simpa [hseq, PortState.toPending] using h.fence
        result := by simpa [hseq, PortState.toPending] using h.result
        unread := h.unread
        notices := h.notices }
    · rw [PortState.beginCommand_more hc hlength]
      have hpart : collectedPart [b] (commandLength c) = true := by
        refine collectedPart_iff.2 ⟨by simp, c, hc, ?_⟩
        cases hn : commandLength c with
        | none => exact .inr ⟨rfl, .inl ⟨Nat.le_add_left 2 2, rfl⟩⟩
        | some n =>
          have hpos := commandLength_pos hn
          have hne : n ≠ 1 := fun h1 => hlength (h1 ▸ hn)
          exact .inl ⟨n, rfl, rfl, by simp; omega⟩
      exact {
        collected := hpart
        timer := rfl
        request := by simpa [hseq] using h.request
        fence := by simpa [hseq] using h.fence
        result := by simpa [hseq] using h.result
        unread := h.unread
        notices := h.notices }

/-! ## A data write in COLLECTING (R124, R125) -/

/-- The next byte of a command whose code fixes the length. -/
theorem PortOk.collect_fixed (h : PortOk x) (hseq : x.seq = .collecting) {n : Nat} (hne : x.collected ≠ [])
    (hc : commandOfByte (byteAt x.collected 1) = some c) (hn : commandLength c = some n)
    (hexpected : x.expected = some n) (hlt : x.collected.length < n) : PortOk (x.collect b) := by
  have hfirst : byteAt (x.collected ++ [b]) 1 = byteAt x.collected 1 := byteAt_append (List.length_pos_iff.2 hne)
  by_cases hlast : x.collected.length + 1 = n
  · rw [PortState.collect_last hexpected hlast]
    exact h.of_pending hseq (collectedWhole_iff.2 ⟨c, hfirst ▸ hc, .inl ⟨n, hn, hexpected, by simpa using hlast⟩⟩)
  · rw [PortState.collect_inside hexpected hlast]
    exact h.of_collecting hseq (collectedPart_iff.2 ⟨by simp, c, hfirst ▸ hc,
      .inl ⟨n, hn, hexpected, by simp; omega⟩⟩)

/-- A byte of a LOAD_VALUES up to its fourth, the count. -/
theorem PortOk.collect_count (h : PortOk x) (hseq : x.seq = .collecting) (hne : x.collected ≠ [])
    (hc : commandOfByte (byteAt x.collected 1) = some c) (hn : commandLength c = none) (hexpected : x.expected = none)
    (hlt : x.collected.length < 4) : PortOk (x.collect b) := by
  have hfirst : byteAt (x.collected ++ [b]) 1 = byteAt x.collected 1 := byteAt_append (List.length_pos_iff.2 hne)
  by_cases hfourth : x.collected.length + 1 = 4
  · rw [PortState.collect_count hexpected hfourth]
    split
    case isTrue hcount =>
      have hb : byteAt (x.collected ++ [b]) 4 = b := byteAt_append_last (by omega)
      have hlow : 1 ≤ b.toNat := hcount.1
      refine h.of_collecting hseq (cmd := x.collected ++ [b])
        (collectedPart_iff.2 ⟨by simp, c, hfirst ▸ hc, .inr ⟨hn, .inr ?_⟩⟩)
      rw [hb, List.length_append, List.length_singleton, hfourth]
      exact ⟨le_rfl, by rwa [loadCountOk, hb], rfl, by unfold loadValuesLength; omega⟩
    case isFalse => exact h.reply (by decide) (by decide)
  · rw [PortState.collect_notCount hexpected hfourth]
    exact h.of_collecting hseq (collectedPart_iff.2 ⟨by simp, c, hfirst ▸ hc,
      .inr ⟨hn, .inl ⟨by simp; omega, hexpected⟩⟩⟩)

/-- A byte of a LOAD_VALUES after the count. -/
theorem PortOk.collect_colour (h : PortOk x) (hseq : x.seq = .collecting)
    (hc : commandOfByte (byteAt x.collected 1) = some c) (hn : commandLength c = none)
    (h4 : 4 ≤ x.collected.length) (hcount : loadCountOk x.collected)
    (hexpected : x.expected = some (loadValuesLength (byteAt x.collected 4).toNat))
    (hlt : x.collected.length < loadValuesLength (byteAt x.collected 4).toNat) : PortOk (x.collect b) := by
  have hfirst : byteAt (x.collected ++ [b]) 1 = byteAt x.collected 1 := byteAt_append (by omega)
  have hfourth : byteAt (x.collected ++ [b]) 4 = byteAt x.collected 4 := byteAt_append (by omega)
  by_cases hlast : x.collected.length + 1 = loadValuesLength (byteAt x.collected 4).toNat
  · rw [PortState.collect_last hexpected hlast]
    refine h.of_pending hseq (collectedWhole_iff.2 ⟨c, hfirst ▸ hc, .inr ⟨hn, ?_⟩⟩)
    rw [loadWhole, loadCountOk, hfourth]
    exact ⟨hcount, hexpected, by simpa using hlast⟩
  · rw [PortState.collect_inside hexpected hlast]
    refine h.of_collecting hseq (collectedPart_iff.2 ⟨by simp, c, hfirst ▸ hc, .inr ⟨hn, .inr ?_⟩⟩)
    rw [hfourth, List.length_append, List.length_singleton]
    exact ⟨by omega, by rwa [loadCountOk, hfourth], hexpected, by omega⟩

theorem PortOk.collect (h : PortOk x) (hseq : x.seq = .collecting) : PortOk (x.collect b) := by
  have hpart : collectedPart x.collected x.expected = true := by simpa only [seqOk, hseq] using h.collected
  obtain ⟨hne, c, hc, ⟨n, hn, hexpected, hlt⟩ | ⟨hn, ⟨hlt, hexpected⟩ | ⟨h4, hcount, hexpected, hlt⟩⟩⟩ :=
    collectedPart_iff.1 hpart
  · exact h.collect_fixed hseq hne hc hn hexpected hlt
  · exact h.collect_count hseq hne hc hn hexpected hlt
  · exact h.collect_colour hseq hc hn h4 hcount hexpected hlt

/-! ## Every access -/

theorem PortOk.dataWrite (h : PortOk x) : PortOk (x.dataWrite b) := by
  cases hseq : x.seq with
  | idle => simpa only [PortState.dataWrite, hseq] using h.beginCommand hseq
  | collecting => simpa only [PortState.dataWrite, hseq] using h.collect hseq
  | pending | waiting | reply => simpa only [PortState.dataWrite, hseq] using h.sequenceError

theorem PortState.dataRead_outOfPhase (h : x.seq ≠ .reply) : x.dataRead = x.readOutOfPhase := by
  unfold PortState.dataRead
  split
  case h_1 hreply _ => exact absurd hreply h
  case h_2 => rfl

theorem PortState.dataRead_reply {r : Result} (hseq : x.seq = .reply) (hr : x.result = some r) :
    x.dataRead = if r.position + 1 < r.bytes.length then
        { x with lastRead := some (r.bytes.getD r.position 0), result := some ⟨r.bytes, r.position + 1⟩ }
      else { x with lastRead := some (r.bytes.getD r.position 0), seq := .idle, result := none } := by
  simp only [PortState.dataRead, hseq, hr]

/-- A data read in REPLY leaves a byte unread, or ends in IDLE (R131). -/
theorem PortOk.dataRead (h : PortOk x) : PortOk x.dataRead := by
  by_cases hseq : x.seq = .reply
  · obtain ⟨r, hr⟩ : ∃ r, x.result = some r := Option.isSome_iff_exists.1 (by simpa [hseq] using h.result)
    have hunread : r.position < r.bytes.length ∧ r.bytes.length ≤ 14 := by simpa [resultOk, hr] using h.unread
    rw [PortState.dataRead_reply hseq hr]
    split
    case isTrue hmore =>
      exact ⟨h.collected, h.timer, h.request, h.fence, by simp [hseq], by simpa [resultOk] using ⟨hmore, hunread.2⟩,
        h.notices⟩
    case isFalse =>
      have hempty : x.collected = [] ∧ x.expected = none := by simpa [seqOk, hseq] using h.collected
      exact ⟨by simp [seqOk, hempty], by simpa [hseq] using h.timer, by simpa [hseq] using h.request,
        by simpa [hseq] using h.fence, rfl, rfl, h.notices⟩
  · rw [PortState.dataRead_outOfPhase hseq]
    exact h.readOutOfPhase

theorem PortStep.keeps_portOk (h : PortStep p x i y) (hx : PortOk x) : PortOk y := by
  cases h with
  | dataWrite b => exact hx.dataWrite
  | dataRead => exact hx.dataRead
  | strobeConflict => exact hx.sequenceError
  | portReset b => exact hx.controlWrite
  | interruptEnables b => exact hx.controlWrite
  | timeout => exact hx.reply (by decide) (by decide)

end Sys2Proof.Machine
end

section
/-! PROOFS. BATCH_APPLIED (spec/04, R85, R89, R98), and the invariant of the ports at every step (spec/06,
spec/08). -/

namespace Sys2Proof.Machine

variable {s t : State} {p q : Port} {i : Instr} {b : Batch} {rest : List Batch} {es : List Edit}

/-! ## The first three steps of the batch applied event -/

/-- Of the edits of a batch only a MAP_CLOSE reaches the working parts, and only a DRAINING slot (R41). -/
theorem foldl_closeDrained_get (v : Vector Slot 8) (es : List Edit) (m : SlotNo) :
    (es.foldl closeDrained v)[m] =
      if .mapClose m ∈ es ∧ v[m].state = .draining then
        { v[m] with state := .closed, owner := none, entries := [] }
      else v[m] := by
  induction es generalizing v with
  | nil => simp
  | cons e es ih =>
    rw [List.foldl_cons, ih, closeDrained_get]
    by_cases h : e = .mapClose m ∧ v[m].state = .draining
    · rw [if_pos h, if_neg fun hagain => nomatch hagain.2]
      exact (if_pos ⟨h.1 ▸ List.mem_cons_self, h.2⟩).symm
    · have hmem : (.mapClose m ∈ e :: es ∧ v[m].state = .draining) ↔
          .mapClose m ∈ es ∧ v[m].state = .draining := by
        rw [List.mem_cons, eq_comm]
        tauto
      simp only [if_neg h, hmem]

theorem State.slot_applyBatch (n : SlotNo) :
    (s.applyBatch b rest).slot n =
      if .mapClose n ∈ b.edits ∧ (s.slot n).state = .draining then
        { s.slot n with state := .closed, owner := none, entries := [] } else s.slot n :=
  foldl_closeDrained_get s.slots b.edits n

theorem State.port_applyBatch (q : Port) :
    (s.applyBatch b rest).port q = (s.port q).fenceEvent b.number := by
  cases q <;> rfl

theorem State.commit_applyBatch :
    (s.applyBatch b rest).commit =
      { s.commit with appliedMark := b.number, served := s.commit.served.insert b.port } := rfl

theorem PortSet.insert_eq (x : PortSet) (p : Port) : x.insert p = ⟨x.a || p = .a, x.b || p = .b⟩ := by
  cases p <;> simp [PortSet.insert]

/-! ## The commit ends or goes on (R85, R89) -/

/-- The commit ends after this batch: a cut is pending, or no batch is left. -/
abbrev State.commitEnds (s : State) : Prop := s.commit.cutPending = true ∨ s.queue = []

theorem State.port_continueCommit (q : Port) :
    s.continueCommit.port q = { s.port q with
      notices := if s.commitEnds ∧ s.commit.served.has q = true then
        takeRaise (s.port q).mask (s.port q).notices (.commitDone s.commit.appliedMark) else (s.port q).notices } := by
  unfold State.continueCommit
  split
  case isTrue hends =>
    rw [State.endCommit_port]
    split <;> simp [State.commitEnds, *]
  case isFalse hgoes => simp [State.commitEnds, hgoes]

theorem State.commit_continueCommit :
    s.continueCommit.commit = { s.commit with state := if s.commitEnds then .idle else s.commit.state } := by
  unfold State.continueCommit
  split
  case isTrue => exact s.endCommit_commit
  case isFalse => rfl

theorem State.setPort_frame (x : PortState) :
    s.setPort p x = { s with portA := (s.setPort p x).portA, portB := (s.setPort p x).portB } := by
  cases p <;> rfl

theorem State.commitDoneAt_frame :
    s.commitDoneAt p = { s with portA := (s.commitDoneAt p).portA, portB := (s.commitDoneAt p).portB } := by
  unfold State.commitDoneAt
  split
  · exact State.setPort_frame _
  · rfl

theorem State.continueCommit_frame : s.continueCommit = { s with
    commit := s.continueCommit.commit, portA := s.continueCommit.portA, portB := s.continueCommit.portB } := by
  unfold State.continueCommit
  split
  · rw [State.endCommit, State.commitDoneAt_frame, State.commitDoneAt_frame]
  · rfl

@[simp] theorem State.continueCommit_slot (n : SlotNo) : s.continueCommit.slot n = s.slot n := by
  rw [State.continueCommit_frame]
  rfl

theorem exec_batchApplied (happlying : s.commit.state = .applying) (hqueue : s.queue = b :: rest) :
    exec .batchApplied s = .next (s.applyBatch b rest).continueCommit := by
  change execBatchApplied s = _
  rw [execBatchApplied, happlying, hqueue]

/-- Settles O26: applyBatch does the first three steps and continueCommit the fourth. -/
theorem batchAppliedAppliesHeadBatch : Obligations.BatchAppliedAppliesHeadBatch := by
  refine ⟨Display.applyEdits_nil, fun d e es => ⟨_, d.applyEdit_effect e, d.applyEdits_cons e es⟩,
    fun s b rest happlying hqueue => ⟨_, exec_batchApplied happlying hqueue, ?frame, fun n => ?slot, ?commit,
      fun q => ?port⟩⟩
  case frame => rw [State.continueCommit_frame]; rfl
  case slot => rw [State.continueCommit_slot, State.slot_applyBatch]
  case commit =>
    have hends : (s.applyBatch b rest).commitEnds ↔ s.commit.cutPending = true ∨ rest = [] := Iff.rfl
    rw [State.commit_continueCommit]
    simp only [hends, State.commit_applyBatch, PortSet.insert_eq, happlying]
  case port =>
    rw [State.port_continueCommit, State.commit_continueCommit, State.port_applyBatch, PortState.fenceEvent]
    split <;> rfl

/-! ## The invariant of the ports -/

theorem portsOk_iff : PortsOk s ↔ ∀ q, PortOk (s.port q) :=
  ⟨fun h q => by cases q; exacts [h.a, h.b], fun h => ⟨h .a, h .b⟩⟩

theorem PortsOk.port (h : PortsOk s) (q : Port) : PortOk (s.port q) := portsOk_iff.1 h q

theorem PortsOk.of_ports (h : PortsOk s) (ht : ∀ q, t.port q = s.port q) : PortsOk t :=
  portsOk_iff.2 fun q => ht q ▸ h.port q

/-- The ports differ by a raise alone. -/
theorem PortsOk.of_noticesOnly (h : PortsOk s) (ht : NoticesOnly s t p) : PortsOk t :=
  portsOk_iff.2 fun q => (h.port q).of_notices (ht.port q) (ht.nodup q (h.port q).notices)

theorem PortsOk.setPort {x : PortState} (h : PortsOk s) (hx : PortOk x) : PortsOk (s.setPort p x) :=
  portsOk_iff.2 fun q => by
    rw [State.port_setPort]
    split
    · exact hx
    · exact h.port q

theorem PortsOk.setLastGranted (h : PortsOk s) : PortsOk { s with lastGranted := p } := ⟨h.a, h.b⟩

theorem okLength_le (c : Command) : okLength c ≤ 14 := by cases c <;> decide

theorem PortsOk.deliver {c : Command} {cmd : List Byte} (h : PortsOk s) :
    PortsOk (s.deliver p (answerOf c p cmd s)) := by
  obtain ⟨code, -, hanswer⟩ | ⟨t, fields, hanswer⟩ | ⟨-, b, -, hanswer⟩ := answerOf_cases c p cmd s <;> rw [hanswer]
  · exact (h.setPort ((h.port p).reply (by simp) (by simp))).setLastGranted
  · obtain ⟨haccepts, hlength⟩ := answerOf_accepts hanswer
    have ht := h.of_noticesOnly haccepts.noticesOnly
    have := okLength_le c
    exact (ht.setPort ((ht.port p).reply (by simp) (by simp only [List.length_cons]; omega))).setLastGranted
  · exact (h.setPort (PortState.wait_ok (h.port p).notices)).setLastGranted

theorem noticesOnly_timerExpired : NoticesOnly s s.timerExpired.beginCommit p :=
  .of_takeRaise (P := fun _ => (!s.commit.rasterIdle) = true) fun q => by
    rw [State.beginCommit_port, State.port_timerExpired]

theorem noticesOnly_continueCommit : NoticesOnly s s.continueCommit p :=
  .of_takeRaise fun q => State.port_continueCommit q

theorem ExecStep.keeps_portsOk (hs : PortsOk s) (h : ExecStep s i t) : PortsOk t := by
  cases h with
  | partReset => exact ⟨portOk_reset, portOk_reset⟩
  | frameStart | lineStart | pixelEvent => exact ⟨hs.a, hs.b⟩
  | blankStart => exact hs.of_ports fun q => by rw [State.beginCommit_port]; rfl
  | commitTimerExpiry => exact hs.of_noticesOnly (p := .a) noticesOnly_timerExpired
  | @batchApplied b rest =>
    have happlied : PortsOk (s.applyBatch b rest) :=
      portsOk_iff.2 fun q => State.port_applyBatch q ▸ (hs.port q).fenceEvent
    exact happlied.of_noticesOnly (p := .a) noticesOnly_continueCommit
  | access h => exact hs.setPort (h.keeps_portOk (hs.port _))
  | command => exact hs.deliver

/-- Settles O4: every access and every delivery keeps what the port holds, and a raise the one notice of each
kind. -/
theorem stepKeepsPortsOk : Obligations.StepKeepsPortsOk := fun _ _ hs h =>
  step_keeps (fun _ _ hs => ⟨hs.a, hs.b⟩) (fun _ _ _ => ExecStep.keeps_portsOk) hs h

end Sys2Proof.Machine
end

section
/-! PROOFS. The invariants of the staging queue (spec/04) and of the configuration at every step, the batch that an
execution appends (R75, R77, R79), and the held result (spec/06, R131). -/

namespace Sys2Proof.Machine

variable {s t u : State} {p q : Port} {x y : PortState} {i : Instr} {b : Batch} {rest : List Batch}
  {es : List Edit} {c : Command} {cmd : List Byte}

/-! ## The fences (R97, R98) -/

/-- An access keeps the fence of the port or discards it. -/
def FenceKept (x y : PortState) : Prop := y.fence = none ∨ y.fence = x.fence

theorem PortState.beginCommand_fence (x : PortState) (b : Byte) : FenceKept x (x.beginCommand b) := by
  unfold PortState.beginCommand
  split
  · exact .inl rfl
  · dsimp only
    split <;> exact .inr rfl

theorem PortState.collect_fence (x : PortState) (b : Byte) : FenceKept x (x.collect b) := by
  unfold PortState.collect
  dsimp only
  split
  · split <;> exact .inr rfl
  · split
    · split
      · exact .inr rfl
      · exact .inl rfl
    · exact .inr rfl

theorem PortStep.fence (h : PortStep p x i y) : FenceKept x y := by
  cases h with
  | dataWrite b =>
    unfold PortState.dataWrite
    split
    · exact x.beginCommand_fence b
    · exact x.collect_fence b
    all_goals exact .inr rfl
  | dataRead =>
    unfold PortState.dataRead
    split
    · dsimp only
      split <;> exact .inr rfl
    · exact .inr rfl
  | strobeConflict => exact .inr rfl
  | portReset | interruptEnables =>
    unfold PortState.controlWrite
    split
    · exact .inl rfl
    · exact .inr rfl
  | timeout => exact .inl rfl

theorem State.newestBatchOf_mem (h : s.newestBatchOf p = some b) : b ∈ s.queue ∧ b.port = p := by
  simpa using List.mem_filter.1 (List.mem_of_getLast? h)

/-- The fence of each port is kept or discarded, or becomes that of its newest batch. -/
def FencesFollow (s t : State) : Prop :=
  ∀ q, FenceKept (s.port q) (t.port q) ∨ ∃ b, s.newestBatchOf q = some b ∧ (t.port q).fence = some b.number

theorem FencesFollow.of_ports (h : ∀ q, t.port q = s.port q) : FencesFollow s t := fun q => .inl (.inr (by rw [h]))

/-- The fences are still on batches of the queue that stood before. -/
theorem QueueOk.exists_fenced (h : QueueOk s) (hfence : FencesFollow s t) (q : Port) :
    ∀ k ∈ (t.port q).fence, ∃ b ∈ s.queue, b.number = k ∧ b.port = q := by
  intro k hk
  obtain (hnone | hkept) | ⟨b, hb, hfenced⟩ := hfence q
  · simp [hnone] at hk
  · exact h.fences q k (hkept ▸ hk)
  · obtain rfl : b.number = k := by simpa [hfenced] using hk
    obtain ⟨hmem, hport⟩ := State.newestBatchOf_mem hb
    exact ⟨b, hmem, rfl, hport⟩

/-! ## The invariant of the queue, by what becomes of the queue -/

theorem QueueOk.setPending (h : QueueOk s) (l : List Instr) : QueueOk { s with pending := l } :=
  ⟨h.batches, h.edits, h.sizes, h.numbers, h.mark, h.applying, fun q => by cases q; exacts [h.fences .a, h.fences .b]⟩

/-- The queue is kept. -/
theorem QueueOk.of_queue (h : QueueOk s) (hqueue : t.queue = s.queue) (hnext : t.nextBatch = s.nextBatch)
    (hmark : t.commit.appliedMark = s.commit.appliedMark)
    (happlying : t.commit.state = .applying → s.commit.state = .applying ∨ s.queue ≠ [])
    (hfence : FencesFollow s t) : QueueOk t where
  batches := by simpa only [State.batchesUsed, hqueue] using h.batches
  edits := by simpa only [State.editsUsed, hqueue] using h.edits
  sizes := hqueue ▸ h.sizes
  numbers := by simpa only [hqueue, hnext, hmark] using h.numbers
  mark := hmark ▸ h.mark
  applying ht := hqueue ▸ (happlying ht).elim h.applying id
  fences q k hk := hqueue ▸ h.exists_fenced hfence q k hk

/-- One batch that fits is appended with the number that comes next (R75, R77). -/
theorem QueueOk.of_append (h : QueueOk s) (hqueue : t.queue = s.queue ++ [⟨s.nextBatch, p, es⟩])
    (hnext : t.nextBatch = nextNumber s.nextBatch) (hcommit : t.commit.appliedMark = s.commit.appliedMark)
    (hroom : hasRoom s es.length) (hsize : 1 ≤ es.length ∧ es.length ≤ 32)
    (hfence : FencesFollow s t) : QueueOk t where
  batches := by simpa [State.batchesUsed, hqueue] using hroom.1
  edits := by simpa [State.editsUsed, hqueue, editsIn] using hroom.2
  sizes := by
    rw [hqueue]
    intro b hb
    obtain hb | hb := List.mem_append.1 hb
    · exact h.sizes b hb
    · rw [List.mem_singleton.1 hb]; exact hsize
  numbers := by rw [hqueue, hnext, hcommit]; exact numbered_append h.numbers p es
  mark := hcommit ▸ h.mark
  applying _ := by simp [hqueue]
  fences q k hk := by
    obtain ⟨b, hb, hfenced⟩ := h.exists_fenced hfence q k hk
    exact ⟨b, hqueue ▸ List.mem_append_left _ hb, hfenced⟩

/-- The head of the queue is applied: the fences on it are satisfied, and the others are on later batches
(R85, R98). -/
theorem QueueOk.applyBatch (h : QueueOk s) (hqueue : s.queue = b :: rest) :
    QueueOk (s.applyBatch b rest).continueCommit := by
  have hkept : (s.applyBatch b rest).continueCommit.queue = rest := by rw [State.continueCommit_frame]; rfl
  have hnext : (s.applyBatch b rest).continueCommit.nextBatch = s.nextBatch := by
    rw [State.continueCommit_frame]; rfl
  obtain ⟨hnumber, hnumbers⟩ : b.number = nextNumber s.commit.appliedMark ∧ numbered b.number rest s.nextBatch := by
    simpa [hqueue, numbered] using h.numbers
  have hmark := h.mark
  have hbatches := h.batches
  have hedits := h.edits
  rw [State.batchesUsed, hqueue, List.length_cons] at hbatches
  rw [State.editsUsed, hqueue, editsIn_cons] at hedits
  refine ⟨?batches, ?edits, ?sizes, ?numbers, ?mark, fun happlying => ?applying, fun q k hk => ?fences⟩
  case batches => rw [State.batchesUsed, hkept]; omega
  case edits => rw [State.editsUsed, hkept]; omega
  case sizes => rw [hkept]; exact fun x hx => h.sizes x (hqueue ▸ List.mem_cons_of_mem b hx)
  case numbers => rw [hkept, hnext, State.commit_continueCommit]; exact hnumbers
  case mark =>
    have happlied : (s.applyBatch b rest).continueCommit.commit.appliedMark = b.number := by
      rw [State.commit_continueCommit]; rfl
    rw [happlied, hnumber, nextNumber, Config.lastBatchNumber]
    split <;> omega
  case applying =>
    rw [hkept]
    intro hempty
    rw [State.commit_continueCommit, if_pos (.inr hempty)] at happlying
    cases happlying
  case fences =>
    rw [hkept]
    rw [State.port_continueCommit, State.port_applyBatch] at hk
    unfold PortState.fenceEvent at hk
    split at hk
    case isTrue => simp [PortState.reply, PortState.cleared] at hk
    case isFalse hother =>
      obtain ⟨x, hx, rfl, hport⟩ := h.fences q k hk
      rw [hqueue] at hx
      obtain rfl | hx := List.mem_cons.1 hx
      · exact absurd hk hother
      · exact ⟨x, hx, rfl, hport⟩

/-! ## The commit unit and the configuration under a command -/

/-- No command touches the commit unit but for its timer (R94). -/
theorem WorkingChange.commit (h : WorkingChange s p c u es) : u.commit = { s.commit with timer := u.commit.timer } := by
  cases h with
  | tables h => rw [h.tablesOnly.commit]
  | lowCells h => rw [State.raiseIfLow_commit, h.tablesOnly.commit]
  | close => rw [State.drainSlot_commit]
  | forceClose => rw [State.raiseRevoked_commit, State.drainSlot_commit]
  | notices => rw [State.setPort_commit]
  | _ => rfl

theorem Accepts.commit (h : Accepts s p c cmd t) : t.commit = { s.commit with timer := t.commit.timer } := by
  cases h with
  | plain h => exact h.commit
  | batched h => exact h.commit

theorem ConfigOk.of_same (h : ConfigOk s) (hconfig : t.config = s.config) (htimer : t.commit.timer = s.commit.timer)
    (hline : t.scan.line = s.scan.line) : ConfigOk t where
  interval := hconfig ▸ h.interval
  watermark := hconfig ▸ h.watermark
  timer := by rw [htimer, hconfig]; exact h.timer
  line := hline ▸ h.line

/-- The timer restarts with the present interval (R90). -/
theorem ConfigOk.of_restarted (h : ConfigOk s) (hconfig : t.config = s.config)
    (htimer : t.commit.timer = .restarted s.config.interval) (hline : t.scan.line = s.scan.line) : ConfigOk t where
  interval := hconfig ▸ h.interval
  watermark := hconfig ▸ h.watermark
  timer := by rw [htimer, hconfig]
  line := hline ▸ h.line

theorem WorkingChange.keeps_configOk (h : WorkingChange s p c u es) (hs : ConfigOk s) : ConfigOk u := by
  have hline : u.scan.line = s.scan.line := by rw [h.untouched.scan]
  cases h with
  | tables h => exact hs.of_same h.tablesOnly.config (by rw [h.tablesOnly.commit]) hline
  | lowCells h => exact hs.of_same (by simp [h.tablesOnly.config]) (by simp [h.tablesOnly.commit]) hline
  | close | forceClose | notices => exact hs.of_same (by simp) (by simp) hline
  | band => exact hs
  | config hinterval hwatermark => exact ⟨hinterval, hwatermark, rfl, hs.line⟩
  | blank => exact ⟨hs.interval, hs.watermark, hs.timer, hs.line⟩

theorem Accepts.keeps_configOk (h : Accepts s p c cmd t) (hs : ConfigOk s) : ConfigOk t := by
  cases h with
  | plain h => exact h.keeps_configOk hs
  | batched h => exact (h.keeps_configOk hs).of_same rfl rfl rfl

/-! ## The batch that an execution appends -/

/-- A granted port in PENDING has a whole command, so its batch has 1 to 32 edits (R75, R125). -/
theorem PortOk.batchSize_range {k : Nat} (h : PortOk x) (hrequest : x.request = true)
    (hc : commandOfByte (byteAt x.collected 1) = some c) (hsize : batchSize c x.collected k) : 1 ≤ k ∧ k ≤ 32 := by
  unfold batchSize at hsize
  split at hsize
  case isTrue hload =>
    subst hload
    obtain ⟨hone, hmax⟩ := h.rangeCountOk_of_loadValues hrequest hc
    exact ⟨hsize ▸ hone, hsize ▸ hmax.trans (by decide)⟩
  case isFalse => exact hsize

/-- What an executed command makes of the queue. -/
theorem queue_deliver (hs : PortsOk s) (hgranted : s.grantedPort = some p)
    (hc : commandOfByte (byteAt (s.port p).collected 1) = some c)
    (ht : t = s.deliver p (answerOf c p (s.port p).collected s)) :
    (t.queue = s.queue ∧ t.nextBatch = s.nextBatch) ∨
      ∃ es, t.queue = s.queue ++ [⟨s.nextBatch, p, es⟩] ∧ t.nextBatch = nextNumber s.nextBatch ∧
        hasRoom s es.length ∧ 1 ≤ es.length ∧ es.length ≤ 32 := by
  subst ht
  obtain ⟨code, -, hanswer⟩ | ⟨t, fields, hanswer⟩ | ⟨-, b, -, hanswer⟩ :=
    answerOf_cases c p (s.port p).collected s <;> rw [hanswer]
  · exact .inl ⟨s.deliver_queue p _, s.deliver_nextBatch p _⟩
  · rw [State.deliver_queue, State.deliver_nextBatch]
    obtain hkept | ⟨es, hqueue, hnext, hroom, hsize⟩ := (answerOf_accepts hanswer).1.queue
    · exact .inl hkept
    · exact .inr ⟨es, hqueue, hnext, hroom,
        (hs.port p).batchSize_range ((s.grantedPort_eq p).1 hgranted).1 hc hsize⟩
  · exact .inl ⟨s.deliver_queue p _, s.deliver_nextBatch p _⟩

/-- An executed command discards the fence of its port or fences its newest batch, and keeps that of the other
port (R97). -/
theorem fencesFollow_deliver (c : Command) (p : Port) (cmd : List Byte) (s : State) :
    FencesFollow s (s.deliver p (answerOf c p cmd s)) := by
  intro q
  obtain rfl | rfl := Port.eq_or_eq_other p q
  · obtain ⟨code, -, hanswer⟩ | ⟨t, fields, hanswer⟩ | ⟨-, b, hb, hanswer⟩ := answerOf_cases c q cmd s <;>
      rw [hanswer]
    · exact .inl (.inl (by rw [State.port_deliver_refusal]; rfl))
    · exact .inl (.inl (by rw [State.port_deliver_accepted]; rfl))
    · exact .inr ⟨b, hb, by rw [State.port_deliver_fence]; rfl⟩
  · exact .inl (.inr (by rw [(engineFrame_deliver c p cmd s).other]))

/-- The commit unit after an executed command, but for its timer. -/
theorem commit_deliver (c : Command) (p : Port) (cmd : List Byte) (s : State) :
    (s.deliver p (answerOf c p cmd s)).commit =
      { s.commit with timer := (s.deliver p (answerOf c p cmd s)).commit.timer } := by
  obtain ⟨code, -, hanswer⟩ | ⟨t, fields, hanswer⟩ | ⟨-, b, -, hanswer⟩ := answerOf_cases c p cmd s <;>
    rw [hanswer, State.deliver_commit]
  · rfl
  · exact (answerOf_accepts hanswer).1.commit
  · rfl

/-! ## The steps -/

theorem State.applying_of_beginCommit (h : s.beginCommit.commit.state = .applying) :
    s.commit.state = .applying ∨ s.queue ≠ [] := by
  unfold State.beginCommit at h
  split at h
  case isTrue hbegins => exact .inr hbegins.2
  case isFalse => exact .inl h

@[simp] theorem CommitUnit.frameStart_state (c : CommitUnit) : c.frameStart.state = c.state := by
  unfold CommitUnit.frameStart
  split <;> rfl

@[simp] theorem CommitUnit.frameStart_appliedMark (c : CommitUnit) :
    c.frameStart.appliedMark = c.appliedMark := by
  unfold CommitUnit.frameStart
  split <;> rfl

@[simp] theorem CommitUnit.frameStart_timer (c : CommitUnit) : c.frameStart.timer = c.timer := by
  unfold CommitUnit.frameStart
  split <;> rfl

theorem QueueOk.beginCommit (h : QueueOk s) : QueueOk s.beginCommit :=
  h.of_queue (by simp) (by simp) (by simp) State.applying_of_beginCommit (.of_ports fun q => by simp)

theorem ExecStep.keeps_queueOk (hports : PortsOk s) (hs : QueueOk s) (h : ExecStep s i t) : QueueOk t := by
  cases h with
  | partReset k => exact (queueOk_resetWith k).setPending _
  | frameStart =>
    exact hs.of_queue rfl rfl (by simp) (fun h => .inl (by simpa using h)) (.of_ports fun q => by cases q <;> rfl)
  | lineStart | pixelEvent => exact hs.of_queue rfl rfl rfl .inl (.of_ports fun q => by cases q <;> rfl)
  | blankStart =>
    have hopened : QueueOk s.blankOpened :=
      hs.of_queue rfl rfl (by simp [State.blankOpened_commit])
        (fun h => .inl (by simpa [State.blankOpened_commit] using h)) (.of_ports fun q => by cases q <;> rfl)
    exact hopened.beginCommit
  | commitTimerExpiry =>
    have hexpired : QueueOk s.timerExpired :=
      hs.of_queue (by simp) (by simp [State.timerExpired]) (by simp [State.timerExpired_commit])
        (fun h => .inl (by simpa [State.timerExpired_commit] using h))
        fun q => .inl (.inr (by rw [State.port_timerExpired]))
    exact hexpired.beginCommit
  | batchApplied _ hqueue => exact hs.applyBatch hqueue
  | @access p i x h =>
    refine hs.of_queue (by simp) (by simp) (by simp) (fun happlying => .inl (by simpa using happlying)) fun q => ?_
    rw [State.port_setPort]
    split
    · subst q; exact .inl h.fence
    · exact .inl (.inr rfl)
  | @command c p hgranted hc =>
    have hcommit := commit_deliver c p (s.port p).collected s
    have hmark := congrArg CommitUnit.appliedMark hcommit
    have hstate := congrArg CommitUnit.state hcommit
    have hfences := fencesFollow_deliver c p (s.port p).collected s
    obtain ⟨hqueue, hnext⟩ | ⟨es, hqueue, hnext, hroom, hsize⟩ := queue_deliver hports hgranted hc rfl
    · exact hs.of_queue hqueue hnext hmark (fun h => .inl (hstate ▸ h)) hfences
    · exact hs.of_append hqueue hnext hmark hroom hsize hfences

/-- Settles O5: the queue is kept, extended by one batch that fits, or loses its head to the display copies. -/
theorem stepKeepsQueueOk : Obligations.StepKeepsQueueOk := by
  intro s t hports hs h
  have hboth : PortsOk t ∧ QueueOk t := step_keeps (P := fun s => PortsOk s ∧ QueueOk s)
    (fun s l hs => ⟨⟨hs.1.a, hs.1.b⟩, hs.2.setPending l⟩)
    (fun s i t hs h => ⟨h.keeps_portsOk hs.1, h.keeps_queueOk hs.1 hs.2⟩) ⟨hports, hs⟩ h
  exact hboth.2

theorem State.lineAfter_le (h : s.scan.line ≤ 2047) : s.lineAfter ≤ 2047 := by
  rw [State.lineAfter_eq_min h]
  exact Nat.min_le_right ..

theorem ExecStep.keeps_configOk (hs : ConfigOk s) (h : ExecStep s i t) : ConfigOk t := by
  cases h with
  | partReset k => exact (configOk_resetWith k).of_same rfl rfl rfl
  | frameStart => exact ⟨hs.interval, hs.watermark, by simpa using hs.timer, Nat.zero_le _⟩
  | lineStart => exact ⟨hs.interval, hs.watermark, hs.timer, State.lineAfter_le hs.line⟩
  | blankStart =>
    exact hs.of_restarted (by simp [State.blankOpened]) (by simp [State.blankOpened_commit, CommitTimer.restarted])
      (by simp [State.blankOpened])
  | pixelEvent => exact hs.of_same rfl rfl rfl
  | commitTimerExpiry =>
    exact hs.of_restarted (by simp [State.timerExpired]) (by simp [State.timerExpired_commit, CommitTimer.restarted])
      (by simp [State.timerExpired])
  | @batchApplied b rest =>
    refine hs.of_same ?_ ?_ ?_ <;> rw [State.continueCommit_frame]
    · rfl
    · rw [State.commit_continueCommit]; rfl
    · rfl
  | access => exact hs.of_same (by simp) (by simp) (by simp)
  | @command c p =>
    obtain ⟨code, -, hanswer⟩ | ⟨t, fields, hanswer⟩ | ⟨-, b, -, hanswer⟩ :=
      answerOf_cases c p (s.port p).collected s <;> rw [hanswer]
    · exact hs.of_same (by simp [Answer.tables]) (by simp [Answer.tables]) (by simp [Answer.tables])
    · exact ((answerOf_accepts hanswer).1.keeps_configOk hs).of_same (by simp [Answer.tables])
        (by simp [Answer.tables]) (by simp [Answer.tables])
    · exact hs.of_same (by simp [Answer.tables]) (by simp [Answer.tables]) (by simp [Answer.tables])

/-- Settles O6: only SET_CONFIG sets the interval and the watermark, in range and with the timer. -/
theorem stepKeepsConfigOk : Obligations.StepKeepsConfigOk := fun _ _ hs h =>
  step_keeps (fun _ _ hs => hs.of_same rfl rfl rfl) (fun _ _ _ => ExecStep.keeps_configOk) hs h

/-! ## The held result (R131) -/

/-- No access but a data read and a control write reaches a held result. -/
theorem PortStep.keeps_result (h : PortStep p x i y) (hseq : x.seq = .reply) (hread : i ≠ .dataRead p)
    (hreset : ∀ b, i ≠ .portReset p b) (henables : ∀ b, i ≠ .interruptEnables p b) :
    y.seq = .reply ∧ y.result = x.result := by
  cases h with
  | dataWrite b => rw [PortState.dataWrite_outOfPhase (by simp [hseq])]; exact ⟨hseq, rfl⟩
  | dataRead => exact absurd rfl hread
  | strobeConflict => exact ⟨hseq, rfl⟩
  | portReset b => exact absurd rfl (hreset b)
  | interruptEnables b => exact absurd rfl (henables b)
  | timeout hcollecting => rw [hseq] at hcollecting; cases hcollecting

/-- Settles O19: the port in REPLY has no fence to be satisfied and no request to be granted. -/
theorem heldResultIsNotDisturbed : Obligations.HeldResultIsNotDisturbed := by
  intro i p s t hports hseq hexec hread hreset henables hpart
  have hport := hports.port p
  have hkept {y : PortState} (hy : y = { s.port p with notices := y.notices, mask := y.mask }) :
      y.seq = .reply ∧ y.result = (s.port p).result := by
    rw [hy]; exact ⟨hseq, rfl⟩
  cases ExecStep.of_exec hexec with
  | partReset k => exact absurd rfl (hpart k)
  | frameStart | lineStart | pixelEvent => exact hkept (by cases p <;> rfl)
  | blankStart => exact hkept (by rw [State.beginCommit_port]; cases p <;> rfl)
  | commitTimerExpiry => exact hkept (noticesOnly_timerExpired (p := .a).port p)
  | @batchApplied b rest =>
    have hfence : (s.port p).fence = none := by simpa [hseq] using hport.fence
    have happlied : (s.applyBatch b rest).port p = s.port p := by
      rw [State.port_applyBatch, PortState.fenceEvent, hfence, if_neg nofun]
    exact hkept (happlied ▸ noticesOnly_continueCommit (p := .a).port p)
  | @access q i x h =>
    rw [State.port_setPort]
    split
    case isTrue hq => subst hq; exact h.keeps_result hseq hread hreset henables
    case isFalse => exact ⟨hseq, rfl⟩
  | @command c q hgranted =>
    obtain rfl | rfl := Port.eq_or_eq_other q p
    · have hrequest := ((s.grantedPort_eq p).1 hgranted).1
      rw [hport.request, hseq] at hrequest
      cases hrequest
    · exact hkept (by rw [(engineFrame_deliver c q (s.port q).collected s).other])

end Sys2Proof.Machine
end

section
/-! PROOFS. What the rebinding of one entry does to the counts of the working tables (spec/01, R4, R5; spec/02,
R25). -/

namespace Sys2Proof.Machine

variable {s t : State} {n m : SlotNo} {i j : Nat} {c d : CellNo} {v : Colour} {e : Option CellNo}

/-! ## Counting with one element replaced -/

theorem countP_set_eq_add {q : Option CellNo → Bool} {l : List (Option CellNo)} (hq : q none = false)
    (hi : i < l.length) : (l.set i e).countP q = (l.set i none).countP q + (q e).toNat := by
  rw [List.countP_set hi, List.countP_set hi, hq]
  cases q e <;> simp

/-- Of a property that changes with the replacement, but not on the other elements. -/
theorem countP_set_add {q q' : Option CellNo → Bool} {l : List (Option CellNo)} (hq : q none = false)
    (hq' : q' none = false) (hi : i < l.length) (hothers : ∀ x ∈ l.set i none, q' x = q x) :
    (l.set i e).countP q' + (q l[i]).toNat = l.countP q + (q' e).toNat := by
  have hnew := countP_set_eq_add (e := e) hq' hi
  have hold := countP_set_eq_add (e := l[i]) hq hi
  rw [List.set_getElem_self] at hold
  have hrest : (l.set i none).countP q' = (l.set i none).countP q :=
    List.countP_congr fun x hx => by rw [hothers x hx]
  omega

/-- An entry of the list that names a cell, by its index. -/
theorem exists_entry_of_mem (h : some d ∈ (s.slot m).entries) : ∃ j, s.entry m j = some d := by
  obtain ⟨j, hj, hd⟩ := List.mem_iff_getElem.1 h
  exact ⟨j, by simp [State.entry, hj, hd]⟩

theorem exists_entry_of_mem_set (h : some d ∈ (s.slot n).entries.set i none) : ∃ j, j ≠ i ∧ s.entry n j = some d := by
  obtain ⟨j, hj, hd⟩ := List.mem_iff_getElem.1 h
  rw [List.getElem_set] at hd
  split at hd
  · cases hd
  · rename_i hne
    rw [List.length_set] at hj
    exact ⟨j, Ne.symm hne, by simp [State.entry, hj, hd]⟩

/-- A cell with a binding is bound to some entry. -/
theorem exists_entry_of_boundCount (h : boundCount s c ≠ 0) : ∃ m j, s.entry m j = some c := by
  rw [boundCount_eq_sum] at h
  obtain ⟨m, -, hm⟩ := Finset.exists_ne_zero_of_sum_ne_zero h
  have hmem : some c ∈ (s.slot m).entries := by
    by_contra hno
    exact hm (List.count_eq_zero.2 hno)
  exact ⟨m, exists_entry_of_mem hmem⟩

/-! ## One entry is rebound -/

/-- Entry `i` of slot `n` becomes `e`; the slot keeps all but that entry and its counts. -/
structure Rebind (s t : State) (n : SlotNo) (i : Nat) (e : Option CellNo) : Prop where
  lt : i < (s.slot n).entries.length
  slot : t.slot n = { s.slot n with
    entries := (s.slot n).entries.set i e, privCount := (t.slot n).privCount, sharedCount := (t.slot n).sharedCount }
  others : ∀ m, m ≠ n → t.slot m = s.slot m

theorem Rebind.of_slots {x : Slot} (hlt : i < (s.slot n).entries.length)
    (h : ∀ m, t.slot m = if m = n then x else s.slot m)
    (hx : x = { s.slot n with
      entries := (s.slot n).entries.set i e, privCount := x.privCount, sharedCount := x.sharedCount }) :
    Rebind s t n i e where
  lt := hlt
  slot := by rw [h n, if_pos rfl]; exact hx
  others m hm := by rw [h m, if_neg hm]

theorem Rebind.entries (h : Rebind s t n i e) : (t.slot n).entries = (s.slot n).entries.set i e := by rw [h.slot]

theorem Rebind.entry (h : Rebind s t n i e) (m : SlotNo) (j : Nat) :
    t.entry m j = if m = n ∧ j = i then e else s.entry m j := by
  by_cases hm : m = n
  · subst hm
    unfold State.entry
    rw [h.entries]
    by_cases hj : j = i
    · subst hj; simp [h.lt]
    · simp [hj, List.getElem?_set_ne (Ne.symm hj)]
  · rw [State.entry, h.others m hm, if_neg fun hmn => hm hmn.1]
    rfl

theorem Rebind.entry_self (h : Rebind s t n i e) : t.entry n i = e := by rw [h.entry, if_pos ⟨rfl, rfl⟩]

theorem State.getElem_entries (hi : i < (s.slot n).entries.length) : (s.slot n).entries[i] = s.entry n i := by
  simp [State.entry, hi]

/-- The bindings of a cell change by the one entry. -/
theorem Rebind.boundCount (h : Rebind s t n i e) (d : CellNo) :
    Sys2Proof.Machine.boundCount t d + (if s.entry n i = some d then 1 else 0) =
      Sys2Proof.Machine.boundCount s d + (if e = some d then 1 else 0) := by
  have hslot := countP_set_add (q := (· == some d)) (q' := (· == some d)) (e := e) rfl rfl h.lt fun _ _ => rfl
  have hothers : ∑ m ∈ {n}ᶜ, (t.slot m).entries.count (some d) = ∑ m ∈ {n}ᶜ, (s.slot m).entries.count (some d) :=
    Finset.sum_congr rfl fun m hm => by rw [h.others m (by simpa using hm)]
  rw [State.getElem_entries h.lt, ← h.entries] at hslot
  rw [boundCount_eq_sum, boundCount_eq_sum, Fintype.sum_eq_add_sum_compl n, Fintype.sum_eq_add_sum_compl n, hothers,
    List.count_eq_countP, List.count_eq_countP]
  simp only [Bool.toNat, Bool.cond_eq_ite, beq_iff_eq] at hslot
  omega

theorem Rebind.boundCount_unbound (h : Rebind s t n i e) (hs : s.entry n i = none) (d : CellNo) :
    Sys2Proof.Machine.boundCount t d = Sys2Proof.Machine.boundCount s d + (if e = some d then 1 else 0) := by
  have := h.boundCount d
  simpa [hs] using this

theorem Rebind.boundCount_other (h : Rebind s t n i e) (hs : s.entry n i ≠ some d) (he : e ≠ some d) :
    Sys2Proof.Machine.boundCount t d = Sys2Proof.Machine.boundCount s d := by
  have := h.boundCount d
  rwa [if_neg hs, if_neg he] at this

/-! ## The counts of the slots -/

/-- The cell is of the same kind in both states. -/
def SameKind (s t : State) (d : CellNo) : Prop := isPriv t d = isPriv s d ∧ isShared t d = isShared s d

theorem SameKind.of_cell (h : t.cell d = s.cell d) : SameKind s t d := by
  simp [SameKind, isPriv, isShared, h]

theorem SameKind.of_shared {w : Colour} {k l : Nat} (hs : s.cell d = .shared v k) (ht : t.cell d = .shared w l) :
    SameKind s t d := by
  simp [SameKind, isPriv, isShared, hs, ht]

/-- A slot that is kept, with the kinds of the cells that it binds, still counts them right. -/
theorem SlotOk.of_slot (h : SlotOk s m) (hslot : t.slot m = s.slot m)
    (hkind : ∀ j d, s.entry m j = some d → SameKind s t d) : SlotOk t m := by
  have hcount {q q' : CellNo → Bool} (hq : ∀ j d, s.entry m j = some d → q' d = q d) :
      (s.slot m).entries.countP (fun x => x.any q') = (s.slot m).entries.countP (fun x => x.any q) := by
    refine List.countP_congr fun x hx => ?_
    cases x with
    | none => rfl
    | some d =>
      obtain ⟨j, hj⟩ := exists_entry_of_mem hx
      simp [hq j d hj]
  constructor <;> rw [hslot]
  · exact h.state
  · rw [hcount fun j d hd => (hkind j d hd).1]; exact h.privCount
  · rw [hcount fun j d hd => (hkind j d hd).2]; exact h.sharedCount
  · exact h.quota

/-- The counts follow the one entry: they change by the cell that it was bound to and the cell that it is bound
to, as the kinds of the two cells say (R25). -/
theorem Rebind.slotOk (h : Rebind s t n i e) (hs : ∀ m, SlotOk s m) (hopen : (s.slot n).state = .opened)
    (hkind : ∀ m j d, ¬ (m = n ∧ j = i) → s.entry m j = some d → SameKind s t d)
    (hpriv : (t.slot n).privCount + ((s.entry n i).any (isPriv s)).toNat =
      (s.slot n).privCount + (e.any (isPriv t)).toNat)
    (hshared : (t.slot n).sharedCount + ((s.entry n i).any (isShared s)).toNat =
      (s.slot n).sharedCount + (e.any (isShared t)).toNat)
    (hquota : (t.slot n).privCount ≤ (s.slot n).quota) (m : SlotNo) : SlotOk t m := by
  by_cases hm : m = n
  · subst hm
    have hcount {q q' : CellNo → Bool} (hq : ∀ j d, j ≠ i → s.entry m j = some d → q' d = q d) :=
      countP_set_add (q := fun x => x.any q) (q' := fun x => x.any q') (e := e) rfl rfl h.lt fun x hx => by
        cases x with
        | none => rfl
        | some d =>
          obtain ⟨j, hj, hd⟩ := exists_entry_of_mem_set hx
          simp [hq j d hj hd]
    have hprivCount := hcount fun j d hj hd => (hkind m j d (fun hji => hj hji.2) hd).1
    have hsharedCount := hcount fun j d hj hd => (hkind m j d (fun hji => hj hji.2) hd).2
    rw [State.getElem_entries h.lt, ← h.entries] at hprivCount hsharedCount
    have hok := hs m
    have hp := hok.privCount
    have hsh := hok.sharedCount
    refine ⟨?_, by omega, by omega, ⟨?_, ?_⟩⟩
    · have hstate := hok.state
      rw [h.slot]
      simp only [slotStateOk, hopen] at hstate ⊢
      simpa using hstate
    · rw [h.slot]; exact hquota
    · rw [h.slot]; exact hok.quota.2
  · exact (hs m).of_slot (h.others m hm) fun j d hd => hkind m j d (fun hmn => hm hmn.1) hd

/-! ## The cells that the change does not reach -/

/-- The cell, its places in the free list and in the index, are kept. -/
structure CellKept (s t : State) (d : CellNo) : Prop where
  cell : t.cell d = s.cell d
  free : d ∈ t.freeList ↔ d ∈ s.freeList
  pair : ∀ w, (w, d) ∈ t.sharedIndex ↔ (w, d) ∈ s.sharedIndex

theorem CellKept.cellOk (h : CellKept s t d) (hcount : boundCount t d = boundCount s d)
    (hentry : ∀ m j, s.entry m j = some d → t.entry m j = some d) (hs : cellOk s d = true) :
    Sys2Proof.Machine.cellOk t d = true := by
  have hcell := h.cell
  cases hc : s.cell d with
  | free =>
    rw [hc] at hcell
    simpa only [Sys2Proof.Machine.cellOk, hc, hcell, h.free, hcount] using hs
  | shared v k =>
    rw [hc] at hcell
    simpa only [Sys2Proof.Machine.cellOk, hc, hcell, h.free, h.pair, hcount] using hs
  | priv v m j =>
    rw [hc] at hcell
    simp only [Sys2Proof.Machine.cellOk, hc, hcell, h.free, hcount, decide_eq_true_eq] at hs ⊢
    exact ⟨hs.1, hentry m j hs.2.1, hs.2.2⟩

theorem Rebind.cellOk (h : Rebind s t n i e) (hkept : CellKept s t d) (hs : s.entry n i ≠ some d) (he : e ≠ some d)
    (hok : Sys2Proof.Machine.cellOk s d = true) : Sys2Proof.Machine.cellOk t d = true :=
  hkept.cellOk (h.boundCount_other hs he) (fun m j hd => by
    rw [h.entry, if_neg]
    · exact hd
    · rintro ⟨rfl, rfl⟩; exact hs hd) hok

end Sys2Proof.Machine
end

section
/-! PROOFS. The invariant of the working tables under each elementary change (spec/01, spec/02, spec/03). -/

namespace Sys2Proof.Machine

variable {s t : State} {n m : SlotNo} {i j k : Nat} {c d x : CellNo} {v w old : Colour} {e : Option CellNo}

/-! ## The cells after the rebinding of an entry -/

theorem pairOk_iff : pairOk s (w, d) = true ↔ ∃ k, s.cell d = .shared w k := by
  unfold pairOk
  cases hc : s.cell d <;> simp [eq_comm]

/-- The cells of the list `l` are what they should be, and the others are kept. -/
theorem CellsOk.of_rebind (hs : CellsOk s) (h : Rebind s t n i e) (l : List CellNo)
    (hkept : ∀ d, d ∉ l → CellKept s t d) (hold : ∀ d, s.entry n i = some d → d ∈ l) (hnew : ∀ d, e = some d → d ∈ l)
    (hok : ∀ d ∈ l, cellOk t d = true) (hpair : ∀ d ∈ l, ∀ w, (w, d) ∈ t.sharedIndex → ∃ k, t.cell d = .shared w k)
    (hnodup : t.freeList.Nodup) (hsorted : (t.sharedIndex.map fun x => x.2).Pairwise (· < ·))
    (hvalues : (t.sharedIndex.map fun x => x.1).Nodup) : CellsOk t where
  cells d := by
    by_cases hd : d ∈ l
    · exact hok d hd
    · exact h.cellOk (hkept d hd) (fun he => hd (hold d he)) (fun he => hd (hnew d he)) (hs.cells d)
  freeNodup := hnodup
  pairs := fun ⟨w, d⟩ hx => by
    by_cases hd : d ∈ l
    · exact pairOk_iff.2 (hpair d hd w hx)
    · rw [pairOk_iff, (hkept d hd).cell]
      exact hs.shared_of_pair (((hkept d hd).pair w).1 hx)
  sorted := hsorted
  values := hvalues

/-- The change reaches one cell at most. -/
theorem CellsOk.of_rebind_one (hs : CellsOk s) (h : Rebind s t n i e) (hkept : ∀ d, d ≠ c → CellKept s t d)
    (hold : ∀ d, s.entry n i = some d → d = c) (hnew : ∀ d, e = some d → d = c) (hok : cellOk t c = true)
    (hpair : ∀ w, (w, c) ∈ t.sharedIndex → ∃ k, t.cell c = .shared w k) (hnodup : t.freeList.Nodup)
    (hsorted : (t.sharedIndex.map fun x => x.2).Pairwise (· < ·)) (hvalues : (t.sharedIndex.map fun x => x.1).Nodup) :
    CellsOk t :=
  hs.of_rebind h [c] (fun d hd => hkept d (by simpa using hd)) (fun d hd => by simp [hold d hd])
    (fun d hd => by simp [hnew d hd]) (by simpa using hok) (by simpa using hpair) hnodup hsorted hvalues

/-- The index has a pair of a SHARED cell for its own value only (R15). -/
theorem CellsOk.value_of_pair (h : CellsOk s) (hc : s.cell c = .shared v k) (hw : (w, c) ∈ s.sharedIndex) : w = v := by
  obtain ⟨l, hl⟩ := h.shared_of_pair hw
  rw [hc] at hl
  cases hl
  rfl

theorem CellsOk.notIndexed (h : CellsOk s) (hc : isShared s c = false) (w : Colour) :
    (w, c) ∉ s.sharedIndex := fun hw => by
  obtain ⟨l, hl⟩ := h.shared_of_pair hw
  simp [isShared, hl] at hc

theorem CellsOk.nodup_freed (h : CellsOk s) (hc : c ∉ s.freeList) : (s.freeList ++ [c]).Nodup :=
  List.concat_eq_append ▸ h.freeNodup.concat hc

theorem cellOk_of_free (hc : t.cell c = .free) (hfree : c ∈ t.freeList) (hcount : boundCount t c = 0) :
    cellOk t c = true := by
  simp [cellOk, hc, hfree, hcount]

theorem cellOk_of_shared (hc : t.cell c = .shared v k) (hfree : c ∉ t.freeList) (hpair : (v, c) ∈ t.sharedIndex)
    (hcount : k = boundCount t c) (hone : 1 ≤ k) (hmax : k ≤ 255) : cellOk t c = true := by
  simp only [cellOk, hc, decide_eq_true_eq]
  exact ⟨hfree, hpair, hcount, hone, hmax⟩

theorem cellOk_of_priv (hc : t.cell c = .priv v n i) (hfree : c ∉ t.freeList) (hentry : t.entry n i = some c)
    (hcount : boundCount t c = 1) : cellOk t c = true := by
  simp only [cellOk, hc, decide_eq_true_eq]
  exact ⟨hfree, hentry, hcount⟩

/-- The cell at the head of the free list is FREE and bound to no entry (R13). -/
theorem CellsOk.head_free (h : CellsOk s) (hfree : s.freeList.head? = some c) :
    s.cell c = .free ∧ boundCount s c = 0 ∧ c ∉ s.freeList.tail ∧
      ∀ d, d ≠ c → (d ∈ s.freeList.tail ↔ d ∈ s.freeList) := by
  obtain ⟨rest, hrest⟩ : ∃ rest, s.freeList = c :: rest := by
    cases hl : s.freeList with
    | nil => simp [hl] at hfree
    | cons a rest => simp only [hl, List.head?_cons, Option.some.injEq] at hfree; exact ⟨rest, by rw [hfree]⟩
  have hc : s.cell c = .free := h.mem_freeList.1 (by rw [hrest]; exact List.mem_cons_self)
  have hnodup := h.freeNodup
  rw [hrest, List.nodup_cons] at hnodup
  refine ⟨hc, (h.of_free hc).2, by rw [hrest]; exact hnodup.1, fun d hd => ?_⟩
  rw [hrest, List.tail_cons, List.mem_cons]
  exact ⟨.inr, fun h => h.resolve_left hd⟩

theorem boundCount_eq_zero (h : boundCount s c = 0) (m : SlotNo) (j : Nat) : s.entry m j ≠ some c := by
  intro hentry
  have hle := bindingsIn_le_boundCount (s := s) (n := m) (c := c) (List.nodup_singleton j)
  rw [bindingsIn_singleton, if_pos hentry] at hle
  omega

theorem ne_of_cell_ne (h : s.cell d ≠ s.cell c) : d ≠ c := fun hdc => h (hdc ▸ rfl)

theorem kind_of_priv (hc : s.cell c = .priv v m j) : isPriv s c = true ∧ isShared s c = false := by
  simp [isPriv, isShared, hc]

theorem kind_of_shared (hc : s.cell c = .shared v k) : isPriv s c = false ∧ isShared s c = true := by
  simp [isPriv, isShared, hc]

/-! ## Binding (R6, R7, R48, R49, R52) -/

section
variable (hs : TablesOk s) (hopen : (s.slot n).state = .opened) (hi : i < (s.slot n).size.entries)
  (hunbound : s.entry n i = none)
include hs hopen hi

theorem TablesOk.index_lt : i < (s.slot n).entries.length := by
  rwa [(hs.slots n).length_entries hopen]

theorem TablesOk.rebind_bindHeldShared : Rebind s (s.bindHeldShared n i c v) n i (some c) :=
  .of_slots (hs.index_lt hopen hi) State.slot_bindHeldShared rfl

theorem TablesOk.rebind_bindNewShared : Rebind s (s.bindNewShared n i c v) n i (some c) :=
  .of_slots (hs.index_lt hopen hi) State.slot_bindNewShared rfl

theorem TablesOk.rebind_bindPrivate : Rebind s (s.bindPrivate n i c v) n i (some c) :=
  .of_slots (hs.index_lt hopen hi) State.slot_bindPrivate rfl

include hunbound

theorem TablesOk.bindHeldShared (hlookup : s.lookup v = some c) (hholders : s.holders c < 255) :
    TablesOk (s.bindHeldShared n i c v) := by
  obtain ⟨k, hc⟩ := hs.cells.shared_of_pair (State.lookup_some hlookup)
  obtain ⟨hfree, hpair, hcount, hone, -⟩ := hs.cells.of_shared hc
  rw [State.holders_of_shared hc] at hholders
  have hcell (d : CellNo) : (s.bindHeldShared n i c v).cell d = if d = c then .shared v (k + 1) else s.cell d := by
    rw [State.cell_bindHeldShared, State.holders_of_shared hc]
  have hcell_c := (hcell c).trans (if_pos rfl)
  have hrebind : Rebind s (s.bindHeldShared n i c v) n i (some c) := hs.rebind_bindHeldShared hopen hi
  have hcount_c := hrebind.boundCount_unbound hunbound c
  rw [if_pos rfl] at hcount_c
  have hslot := (State.slot_bindHeldShared (s := s) (n := n) (i := i) (c := c) (v := v) n).trans (if_pos rfl)
  obtain ⟨hnotPriv, hisShared⟩ := kind_of_shared hcell_c
  refine ⟨hs.cells.of_rebind_one (c := c) hrebind (fun d hd => ⟨(hcell d).trans (if_neg hd), Iff.rfl, fun _ => Iff.rfl⟩)
      (by simp [hunbound]) (by simp [eq_comm])
      (cellOk_of_shared hcell_c hfree hpair (by omega) (by omega) (by omega))
      (fun w hw => ⟨k + 1, hs.cells.value_of_pair hc hw ▸ hcell_c⟩) hs.cells.freeNodup hs.cells.sorted hs.cells.values,
    hrebind.slotOk hs.slots hopen (fun m j d _ hd => ?_) ?_ ?_ ?_⟩
  · by_cases hdc : d = c
    · subst hdc; exact .of_shared hc hcell_c
    · exact .of_cell ((hcell d).trans (if_neg hdc))
  · simp [hslot, hunbound, hnotPriv]
  · simp [hslot, hunbound, hisShared]
  · rw [hslot]; exact (hs.slots n).quota.1

theorem TablesOk.bindNewShared (hlookup : s.lookup v = none) (hhead : s.freeList.head? = some c) :
    TablesOk (s.bindNewShared n i c v) := by
  obtain ⟨hc, hzero, hnotTail, htail⟩ := hs.cells.head_free hhead
  have hcell (d : CellNo) : (s.bindNewShared n i c v).cell d = if d = c then .shared v 1 else s.cell d :=
    State.cell_bindNewShared d
  have hcell_c := (hcell c).trans (if_pos rfl)
  have hrebind : Rebind s (s.bindNewShared n i c v) n i (some c) := hs.rebind_bindNewShared hopen hi
  have hcount_c := hrebind.boundCount_unbound hunbound c
  rw [if_pos rfl, hzero] at hcount_c
  have hslot := (State.slot_bindNewShared (s := s) (n := n) (i := i) (c := c) (v := v) n).trans (if_pos rfl)
  have hnotIndexed := hs.cells.notIndexed (c := c) (by simp [isShared, hc])
  obtain ⟨hnotPriv, hisShared⟩ := kind_of_shared hcell_c
  refine ⟨hs.cells.of_rebind_one (c := c) hrebind (fun d hdc => ?_) (by simp [hunbound]) (by simp [eq_comm]) ?_ ?_
    (hs.cells.freeNodup.sublist (List.tail_sublist _))
    (indexInsert_sorted v c _ hs.cells.sorted fun x hx hxc => hnotIndexed x.1 (hxc ▸ hx))
    (indexInsert_values v c _ hs.cells.values (State.lookup_none.1 hlookup)),
    hrebind.slotOk hs.slots hopen (fun m j d _ hd => ?_) ?_ ?_ ?_⟩
  · exact ⟨(hcell d).trans (if_neg hdc), htail d hdc, fun w => by
      rw [State.mem_sharedIndex_bindNewShared, or_iff_right (fun h => hdc (Prod.mk.inj h).2)]⟩
  · exact cellOk_of_shared hcell_c hnotTail (State.mem_sharedIndex_bindNewShared _ |>.2 (.inl rfl)) hcount_c.symm
      le_rfl (by decide)
  · intro w hw
    obtain heq | hw := (State.mem_sharedIndex_bindNewShared _).1 hw
    · exact ⟨1, (Prod.mk.inj heq).1 ▸ hcell_c⟩
    · exact absurd hw (hnotIndexed w)
  · exact .of_cell ((hcell d).trans (if_neg fun hdc : d = c => boundCount_eq_zero hzero m j (hdc ▸ hd)))
  · simp [hslot, hunbound, hnotPriv]
  · simp [hslot, hunbound, hisShared]
  · rw [hslot]; exact (hs.slots n).quota.1

theorem TablesOk.bindPrivate (hquota : (s.slot n).privCount + 1 ≤ (s.slot n).quota)
    (hhead : s.freeList.head? = some c) : TablesOk (s.bindPrivate n i c v) := by
  obtain ⟨hc, hzero, hnotTail, htail⟩ := hs.cells.head_free hhead
  have hcell (d : CellNo) : (s.bindPrivate n i c v).cell d = if d = c then .priv v n i else s.cell d :=
    State.cell_bindPrivate d
  have hcell_c := (hcell c).trans (if_pos rfl)
  have hrebind : Rebind s (s.bindPrivate n i c v) n i (some c) := hs.rebind_bindPrivate hopen hi
  have hcount_c := hrebind.boundCount_unbound hunbound c
  rw [if_pos rfl, hzero] at hcount_c
  have hslot := (State.slot_bindPrivate (s := s) (n := n) (i := i) (c := c) (v := v) n).trans (if_pos rfl)
  obtain ⟨hisPriv, hnotShared⟩ := kind_of_priv hcell_c
  refine ⟨hs.cells.of_rebind_one (c := c) hrebind
      (fun d hdc => ⟨(hcell d).trans (if_neg hdc), htail d hdc, fun w => Iff.rfl⟩) (by simp [hunbound])
      (by simp [eq_comm]) (cellOk_of_priv hcell_c hnotTail hrebind.entry_self hcount_c)
      (fun w hw => absurd hw (hs.cells.notIndexed (by simp [isShared, hc]) w))
      (hs.cells.freeNodup.sublist (List.tail_sublist _)) hs.cells.sorted hs.cells.values,
    hrebind.slotOk hs.slots hopen (fun m j d _ hd => ?_) ?_ ?_ ?_⟩
  · exact .of_cell ((hcell d).trans (if_neg fun hdc : d = c => boundCount_eq_zero hzero m j (hdc ▸ hd)))
  · simp [hslot, hunbound, hisPriv]
  · simp [hslot, hunbound, hnotShared]
  · rw [hslot]; exact hquota

end

end Sys2Proof.Machine
end

section
/-! PROOFS. The invariant of the working tables under a release, a FREEZE, a new value and a change of a slot
(spec/01, spec/02, spec/03). -/

namespace Sys2Proof.Machine

variable {s t u : State} {p : Port} {n m : SlotNo} {i j k : Nat} {c d x : CellNo} {v w old : Colour}
  {es : List Edit} {cmd : List Byte}

/-! ## Releasing one entry (R60) -/

theorem State.entries_releaseEntry : ((s.releaseEntry n i).slot n).entries = (s.slot n).entries.set i none := by
  refine List.ext_getElem (by rw [SlotKept.releaseEntry.length, List.length_set]) fun j hj hj' => ?_
  rw [List.length_set] at hj'
  rw [State.getElem_entries hj, State.entry_releaseEntry, List.getElem_set, State.getElem_entries hj']
  simp only [eq_comm]

theorem rebind_releaseEntry (hentry : s.entry n i = some c) : Rebind s (s.releaseEntry n i) n i none where
  lt := s.entry_lt hentry
  slot := by rw [← State.entries_releaseEntry]; exact SlotKept.releaseEntry.slot
  others := SlotKept.releaseEntry.others

/-- Another entry bound to the cell would count twice. -/
theorem ne_of_boundCount_one (hcount : boundCount s c = 1) (hentry : s.entry n i = some c)
    (hother : ¬ (m = n ∧ j = i)) (hd : s.entry m j = some d) : d ≠ c := by
  rintro rfl
  have := two_le_boundCount hd hentry hother
  omega

theorem SlotOk.one_le_privCount (h : SlotOk s n) (hentry : s.entry n i = some c) (hc : isPriv s c = true) :
    1 ≤ (s.slot n).privCount := by
  simpa [hentry, hc] using h.countP_isPriv_le (List.nodup_singleton i)

theorem SlotOk.one_le_sharedCount (h : SlotOk s n) (hentry : s.entry n i = some c) (hc : isShared s c = true) :
    1 ≤ (s.slot n).sharedCount := by
  simpa [hentry, hc] using h.countP_isShared_le (List.nodup_singleton i)

theorem TablesOk.release_priv (hs : TablesOk s) (hopen : (s.slot n).state = .opened)
    (hentry : s.entry n i = some c) (hc : s.cell c = .priv v n i) : TablesOk (s.releaseEntry n i) := by
  obtain ⟨hfree, -, hone⟩ := hs.cells.of_priv hc
  have hrebind := rebind_releaseEntry hentry
  have hcell (d : CellNo) := State.cell_releaseEntry_priv (d := d) hentry hc
  have hcell_c := (hcell c).trans (if_pos rfl)
  have hfreeList := State.freeList_releaseEntry_priv hentry hc
  have hindex := State.sharedIndex_releaseEntry_priv hentry hc
  obtain ⟨hprivCount, hsharedCount⟩ := State.counts_releaseEntry_priv hentry hc
  obtain ⟨hisPriv, hnotShared⟩ := kind_of_priv hc
  have hpos := (hs.slots n).one_le_privCount hentry hisPriv
  have hcount_c := hrebind.boundCount c
  rw [if_pos hentry, if_neg nofun, hone] at hcount_c
  refine ⟨hs.cells.of_rebind_one (c := c) hrebind
      (fun d hdc => ⟨(hcell d).trans (if_neg hdc), by simp [hfreeList, hdc], fun w => by rw [hindex]⟩)
      (by simp [hentry]) nofun (cellOk_of_free hcell_c (by simp [hfreeList]) (by omega))
      (fun w hw => absurd (hindex ▸ hw) (hs.cells.notIndexed hnotShared w)) (hfreeList ▸ hs.cells.nodup_freed hfree)
      (hindex ▸ hs.cells.sorted) (hindex ▸ hs.cells.values),
    hrebind.slotOk hs.slots hopen (fun m j d hother hd => ?_) ?_ ?_ ?_⟩
  · exact .of_cell ((hcell d).trans (if_neg (ne_of_boundCount_one hone hentry hother hd)))
  · simp [hprivCount, hentry, hisPriv]; omega
  · simp [hsharedCount, hentry, hnotShared]
  · rw [hprivCount]; exact (Nat.sub_le ..).trans (hs.slots n).quota.1

theorem TablesOk.release_shared (hs : TablesOk s) (hopen : (s.slot n).state = .opened)
    (hentry : s.entry n i = some c) (hc : s.cell c = .shared v k) : TablesOk (s.releaseEntry n i) := by
  obtain ⟨hfree, hpair, hholders, hone, hmax⟩ := hs.cells.of_shared hc
  have hrebind := rebind_releaseEntry hentry
  have hcell (d : CellNo) := State.cell_releaseEntry_shared (d := d) hentry hc
  have hcell_c := (hcell c).trans (if_pos rfl)
  have hfreeList := State.freeList_releaseEntry_shared hentry hc
  have hindex := State.sharedIndex_releaseEntry_shared hentry hc
  obtain ⟨hprivCount, hsharedCount⟩ := State.counts_releaseEntry_shared hentry hc
  obtain ⟨hnotPriv, hisShared⟩ := kind_of_shared hc
  have hpos := (hs.slots n).one_le_sharedCount hentry hisShared
  have hcount_c := hrebind.boundCount c
  rw [if_pos hentry, if_neg nofun] at hcount_c
  have hsublist : ((s.releaseEntry n i).sharedIndex).Sublist s.sharedIndex := by
    rw [hindex]
    split
    · exact List.filter_sublist
    · exact List.Sublist.refl _
  refine ⟨hs.cells.of_rebind_one (c := c) hrebind (fun d hdc => ⟨(hcell d).trans (if_neg hdc), ?_, fun w => ?_⟩)
      (by simp [hentry]) nofun ?_ (fun w hw => ?_) ?_ (hs.cells.sorted.sublist (hsublist.map _))
      (hs.cells.values.sublist (hsublist.map _)),
    hrebind.slotOk hs.slots hopen (fun m j d hother hd => ?_) ?_ ?_ ?_⟩
  · rw [hfreeList]; split <;> simp [hdc]
  · rw [hindex]; split <;> simp [hdc]
  · by_cases hlast : k ≤ 1
    · rw [if_pos hlast] at hcell_c hfreeList
      exact cellOk_of_free hcell_c (by simp [hfreeList]) (by omega)
    · rw [if_neg hlast] at hcell_c hfreeList hindex
      exact cellOk_of_shared hcell_c (hfreeList ▸ hfree) (hindex ▸ hpair) (by omega) (by omega) (by omega)
  · by_cases hlast : k ≤ 1
    · rw [hindex, if_pos hlast] at hw
      simp at hw
    · exact ⟨_, hs.cells.value_of_pair hc (hsublist.subset hw) ▸ hcell_c.trans (if_neg hlast)⟩
  · rw [hfreeList]
    split
    · exact hs.cells.nodup_freed hfree
    · exact hs.cells.freeNodup
  · by_cases hdc : d = c
    · subst hdc
      have htwo := two_le_boundCount hd hentry hother
      exact .of_shared hc (hcell_c.trans (if_neg (by omega)))
    · exact .of_cell ((hcell d).trans (if_neg hdc))
  · simp [hprivCount, hentry, hnotPriv]
  · simp [hsharedCount, hentry, hisShared]; omega
  · rw [hprivCount]; exact (hs.slots n).quota.1

theorem TablesOk.release (hs : TablesOk s) (hopen : (s.slot n).state = .opened) (hentry : s.entry n i = some c) :
    TablesOk (s.releaseEntry n i) := by
  obtain hnone | ⟨d, v, hd, hc⟩ | ⟨d, v, k, hd, hc⟩ := hs.cells.entry_cases n i
  · rw [hnone] at hentry; cases hentry
  · exact hs.release_priv hopen hd hc
  · exact hs.release_shared hopen hd hc

/-! ## FREEZE (R10, R11, R65, R66) -/

theorem TablesOk.merge (hs : TablesOk s) (hopen : (s.slot n).state = .opened) (hentry : s.entry n i = some c)
    (hc : s.cell c = .priv v m j) (hlookup : s.lookup v = some x) (hholders : s.holders x < 255) :
    TablesOk (mergeInto s n i c x v) := by
  obtain ⟨hfree, -, hone⟩ := hs.cells.of_priv hc
  obtain ⟨k, hx⟩ := hs.cells.shared_of_pair (State.lookup_some hlookup)
  obtain ⟨hxfree, hxpair, hxcount, hxone, -⟩ := hs.cells.of_shared hx
  rw [State.holders_of_shared hx] at hholders
  have hxc : x ≠ c := ne_of_cell_ne (by rw [hx, hc]; nofun)
  have hrebind : Rebind s (mergeInto s n i c x v) n i (some x) :=
    .of_slots (s.entry_lt hentry) slot_mergeInto rfl
  have hcell (d : CellNo) : (mergeInto s n i c x v).cell d =
      if d = c then .free else if d = x then .shared v (k + 1) else s.cell d := by
    rw [cell_mergeInto, State.holders_of_shared hx]
  have hcell_c := (hcell c).trans (if_pos rfl)
  have hcell_x := (hcell x).trans ((if_neg hxc).trans (if_pos rfl))
  have hcell_d (d : CellNo) (hdc : d ≠ c) (hdx : d ≠ x) := (hcell d).trans ((if_neg hdc).trans (if_neg hdx))
  have hfreeList : (mergeInto s n i c x v).freeList = s.freeList ++ [c] := rfl
  have hslot := (slot_mergeInto (s := s) (n := n) (i := i) (c := c) (x := x) (v := v) n).trans (if_pos rfl)
  obtain ⟨hisPriv, hnotShared⟩ := kind_of_priv hc
  obtain ⟨hnotPriv, hisShared⟩ := kind_of_shared hcell_x
  have hpos := (hs.slots n).one_le_privCount hentry hisPriv
  have hcount_c := hrebind.boundCount c
  rw [if_pos hentry, if_neg (by simpa using hxc), hone] at hcount_c
  have hcount_x := hrebind.boundCount x
  rw [if_neg (by simpa [hentry] using hxc.symm), if_pos rfl] at hcount_x
  refine ⟨hs.cells.of_rebind hrebind [c, x] (fun d hd => ?_) (by simp [hentry]) (by simp) ?_ ?_
    (hs.cells.nodup_freed hfree) hs.cells.sorted hs.cells.values,
    hrebind.slotOk hs.slots hopen (fun m j d hother hd => ?_) ?_ ?_ ?_⟩
  · obtain ⟨hdc, hdx⟩ : d ≠ c ∧ d ≠ x := by simpa using hd
    exact ⟨hcell_d d hdc hdx, by simp [hfreeList, hdc], fun w => Iff.rfl⟩
  · simp only [List.mem_cons, List.not_mem_nil, or_false, forall_eq_or_imp, forall_eq]
    exact ⟨cellOk_of_free hcell_c (by simp [hfreeList]) (by omega),
      cellOk_of_shared hcell_x (by simp [hfreeList, hxc, hxfree]) hxpair (by omega) (by omega) (by omega)⟩
  · simp only [List.mem_cons, List.not_mem_nil, or_false, forall_eq_or_imp, forall_eq]
    exact ⟨fun w hw => absurd hw (hs.cells.notIndexed hnotShared w),
      fun w hw => ⟨k + 1, hs.cells.value_of_pair hx hw ▸ hcell_x⟩⟩
  · have hdc := ne_of_boundCount_one hone hentry hother hd
    by_cases hdx : d = x
    · subst hdx; exact .of_shared hx hcell_x
    · exact .of_cell (hcell_d d hdc hdx)
  · simp [hslot, hentry, hisPriv, hnotPriv]; omega
  · simp [hslot, hentry, hnotShared, hisShared]
  · rw [hslot]; exact (Nat.sub_le ..).trans (hs.slots n).quota.1

theorem rebind_freezeInPlace (hentry : s.entry n i = some c) :
    Rebind s (freezeInPlace s n c v) n i (some c) := by
  have hlt := s.entry_lt hentry
  have hself : (s.slot n).entries.set i (some c) = (s.slot n).entries := by
    rw [← hentry, ← State.getElem_entries hlt, List.set_getElem_self]
  refine .of_slots hlt slot_freezeInPlace ?_
  rw [hself]
  rfl

theorem TablesOk.freeze (hs : TablesOk s) (hopen : (s.slot n).state = .opened) (hentry : s.entry n i = some c)
    (hc : s.cell c = .priv v m j) (hlookup : s.lookup v = none) : TablesOk (freezeInPlace s n c v) := by
  obtain ⟨hfree, -, hone⟩ := hs.cells.of_priv hc
  have hrebind := rebind_freezeInPlace (v := v) hentry
  have hcell (d : CellNo) : (freezeInPlace s n c v).cell d = if d = c then .shared v 1 else s.cell d :=
    cell_freezeInPlace d
  have hcell_c := (hcell c).trans (if_pos rfl)
  have hnotIndexed := hs.cells.notIndexed (c := c) (by simp [isShared, hc])
  have hslot := (slot_freezeInPlace (s := s) (n := n) (c := c) (v := v) n).trans (if_pos rfl)
  obtain ⟨hisPriv, hnotShared⟩ := kind_of_priv hc
  obtain ⟨hnotPriv, hisShared⟩ := kind_of_shared hcell_c
  have hpos := (hs.slots n).one_le_privCount hentry hisPriv
  have hcount_c := hrebind.boundCount c
  rw [if_pos hentry, if_pos rfl, hone] at hcount_c
  refine ⟨hs.cells.of_rebind_one (c := c) hrebind (fun d hdc => ?_) (by simp [hentry]) (by simp [eq_comm])
    (cellOk_of_shared hcell_c hfree (mem_sharedIndex_freezeInPlace _ |>.2 (.inl rfl)) (by omega) le_rfl (by decide))
    ?_ hs.cells.freeNodup
    (indexInsert_sorted v c _ hs.cells.sorted fun x hx hxc => hnotIndexed x.1 (hxc ▸ hx))
    (indexInsert_values v c _ hs.cells.values (State.lookup_none.1 hlookup)),
    hrebind.slotOk hs.slots hopen (fun m j d hother hd => ?_) ?_ ?_ ?_⟩
  · exact ⟨(hcell d).trans (if_neg hdc), Iff.rfl, fun w => by
      rw [mem_sharedIndex_freezeInPlace, or_iff_right (fun h => hdc (Prod.mk.inj h).2)]⟩
  · intro w hw
    obtain heq | hw := (mem_sharedIndex_freezeInPlace _).1 hw
    · exact ⟨1, (Prod.mk.inj heq).1 ▸ hcell_c⟩
    · exact absurd hw (hnotIndexed w)
  · exact .of_cell ((hcell d).trans (if_neg (ne_of_boundCount_one hone hentry hother hd)))
  · simp [hslot, Slot.frozen, hentry, hisPriv, hnotPriv]; omega
  · simp [hslot, Slot.frozen, hentry, hnotShared, hisShared]
  · rw [hslot]; exact (Nat.sub_le ..).trans (hs.slots n).quota.1

/-! ## A new value of a PRIVATE cell (R12) -/

theorem TablesOk.setValue (hs : TablesOk s) (hc : s.cell c = .priv old m j) : TablesOk (s.setPrivValue c v) := by
  obtain ⟨hfree, howner, hone⟩ := hs.cells.of_priv hc
  have hcell_c : (s.setPrivValue c v).cell c = .priv v m j := State.cell_setPrivValue_of_priv hc
  have hcell_d (d : CellNo) (hdc : d ≠ c) : (s.setPrivValue c v).cell d = s.cell d :=
    State.cell_setPrivValue_of_ne hdc
  have hslot (m : SlotNo) : (s.setPrivValue c v).slot m = s.slot m := State.setPrivValue_slot ..
  have hentry (m : SlotNo) (j : Nat) : (s.setPrivValue c v).entry m j = s.entry m j := by
    rw [State.entry, hslot, State.entry]
  have hcount (d : CellNo) : boundCount (s.setPrivValue c v) d = boundCount s d := by simp [boundCount]
  have hkind (d : CellNo) : SameKind s (s.setPrivValue c v) d := by
    by_cases hdc : d = c
    · subst hdc; simp [SameKind, isPriv, isShared, hcell_c, hc]
    · exact .of_cell (hcell_d d hdc)
  refine ⟨⟨fun d => ?_, by simpa using hs.cells.freeNodup, fun ⟨w, d⟩ hx => ?_, by simpa using hs.cells.sorted,
    by simpa using hs.cells.values⟩, fun m => (hs.slots m).of_slot (hslot m) fun _ d _ => hkind d⟩
  · by_cases hdc : d = c
    · subst hdc
      exact cellOk_of_priv hcell_c (by simpa using hfree) ((hentry m j).trans howner) ((hcount d).trans hone)
    · have hkept : CellKept s (s.setPrivValue c v) d := ⟨hcell_d d hdc, by simp, fun w => by simp⟩
      exact hkept.cellOk (hcount d) (fun m j hd => (hentry m j).trans hd) (hs.cells.cells d)
  · rw [State.setPrivValue_sharedIndex] at hx
    obtain ⟨l, hl⟩ := hs.cells.shared_of_pair hx
    have hdc : d ≠ c := ne_of_cell_ne (by rw [hl, hc]; nofun)
    exact pairOk_iff.2 ⟨l, (hcell_d d hdc).trans hl⟩

/-! ## A slot changed without its bindings (R22 to R26) -/

/-- The slot `y` binds what slot `m` binds, and is by itself what a slot should be. -/
structure SlotRevised (s : State) (m : SlotNo) (y : Slot) : Prop where
  bindings : y.entries = (s.slot m).entries ∨
    (∀ e ∈ y.entries, e = none) ∧ ∀ e ∈ (s.slot m).entries, e = none
  state : slotStateOk y = true
  privCount : y.privCount = y.entries.countP fun e => e.any (isPriv s)
  sharedCount : y.sharedCount = y.entries.countP fun e => e.any (isShared s)
  quota : y.privCount ≤ y.quota ∧ y.quota ≤ 512

theorem SlotRevised.refl (h : SlotOk s m) : SlotRevised s m (s.slot m) :=
  ⟨.inl rfl, h.state, h.privCount, h.sharedCount, h.quota⟩

theorem countP_of_unbound {l : List (Option CellNo)} (h : ∀ e ∈ l, e = none) (q : CellNo → Bool) :
    (l.countP fun e => e.any q) = 0 :=
  List.countP_eq_zero.2 fun e he => by simp [h e he]

theorem count_of_unbound {l : List (Option CellNo)} (h : ∀ e ∈ l, e = none) (d : CellNo) : l.count (some d) = 0 :=
  List.count_eq_zero.2 fun hd => nomatch h _ hd

theorem getD_of_unbound {l : List (Option CellNo)} (h : ∀ e ∈ l, e = none) (j : Nat) : l.getD j none = none := by
  rw [List.getD_eq_getElem?_getD]
  cases hj : l[j]? with
  | none => rfl
  | some e => exact h e (List.mem_of_getElem? hj)

theorem TablesOk.of_slotRevised (hs : TablesOk s) (hcells : SameCells s t)
    (hslot : ∀ m, SlotRevised s m (t.slot m)) : TablesOk t := by
  have hcell (d : CellNo) : t.cell d = s.cell d := by rw [State.cell, hcells.cells, State.cell]
  have hpriv : isPriv t = isPriv s := funext fun d => by rw [isPriv, hcell, isPriv]
  have hshared : isShared t = isShared s := funext fun d => by rw [isShared, hcell, isShared]
  have hcount (d : CellNo) : boundCount t d = boundCount s d := by
    unfold boundCount
    congr 2
    funext m
    obtain hsame | ⟨hnew, hold⟩ := (hslot m).bindings
    · rw [hsame]
    · rw [count_of_unbound hnew, count_of_unbound hold]
  have hentry (m : SlotNo) (j : Nat) : t.entry m j = s.entry m j := by
    unfold State.entry
    obtain hsame | ⟨hnew, hold⟩ := (hslot m).bindings
    · rw [hsame]
    · rw [getD_of_unbound hnew, getD_of_unbound hold]
  have hkept (d : CellNo) : CellKept s t d := ⟨hcell d, by rw [hcells.freeList], fun w => by rw [hcells.sharedIndex]⟩
  refine ⟨⟨fun d => (hkept d).cellOk (hcount d) (fun m j hd => (hentry m j).trans hd) (hs.cells.cells d),
    hcells.freeList ▸ hs.cells.freeNodup, fun ⟨w, d⟩ hx => ?_, hcells.sharedIndex ▸ hs.cells.sorted,
    hcells.sharedIndex ▸ hs.cells.values⟩, fun m => ⟨(hslot m).state, ?_, ?_, (hslot m).quota⟩⟩
  · rw [pairOk_iff, hcell]
    exact hs.cells.shared_of_pair (hcells.sharedIndex ▸ hx)
  · rw [hpriv]; exact (hslot m).privCount
  · rw [hshared]; exact (hslot m).sharedCount

theorem TablesOk.setSlot {y : Slot} (hs : TablesOk s) (hy : SlotRevised s n y) : TablesOk (s.setSlot n y) :=
  hs.of_slotRevised ⟨rfl, rfl, rfl⟩ fun m => by
    rw [State.slot_setSlot]
    split
    · subst m; exact hy
    · exact .refl (hs.slots m)

theorem SlotOk.entries_of_closed (h : SlotOk s n) (hclosed : (s.slot n).state = .closed) :
    (s.slot n).entries = [] := by
  have hstate := h.state
  simp only [slotStateOk, hclosed, decide_eq_true_eq] at hstate
  exact hstate.2

theorem SlotOk.entries_of_draining (h : SlotOk s n) (hdraining : (s.slot n).state = .draining) :
    (s.slot n).entries = List.replicate (s.slot n).size.entries none := by
  have hstate := h.state
  simp only [slotStateOk, hdraining, decide_eq_true_eq] at hstate
  exact hstate.2

theorem TablesOk.openMap {size : MapSize} (hs : TablesOk s) (hclosed : (s.slot n).state = .closed) :
    TablesOk (s.setSlot n ((s.slot n).openedFor p size)) := by
  have hempty := (hs.slots n).entries_of_closed hclosed
  have hunbound : ∀ e ∈ List.replicate size.entries (none : Option CellNo), e = none :=
    fun _ => List.eq_of_mem_replicate
  exact hs.setSlot ⟨.inr ⟨hunbound, by simp [hempty]⟩, by simp [slotStateOk, Slot.openedFor],
    (countP_of_unbound hunbound _).symm, (countP_of_unbound hunbound _).symm,
    ⟨Nat.zero_le _, (hs.slots n).quota.2⟩⟩

/-- The entries of an OPEN slot with nothing bound. -/
theorem SlotOk.entries_of_unbound (h : SlotOk s n) (hopen : (s.slot n).state = .opened)
    (hunbound : ∀ i, s.entry n i = none) : (s.slot n).entries = List.replicate (s.slot n).size.entries none := by
  refine List.eq_replicate_iff.2 ⟨h.length_entries hopen, fun e he => ?_⟩
  cases e with
  | none => rfl
  | some d =>
    obtain ⟨j, hj⟩ := exists_entry_of_mem he
    rw [hunbound] at hj; cases hj

theorem TablesOk.drain (hs : TablesOk s) (hopen : (s.slot n).state = .opened) (hunbound : ∀ i, s.entry n i = none) :
    TablesOk (s.setSlot n { s.slot n with state := .draining }) := by
  have hn := hs.slots n
  have hstate := hn.state
  simp only [slotStateOk, hopen, decide_eq_true_eq] at hstate
  refine hs.setSlot ⟨.inl rfl, ?_, hn.privCount, hn.sharedCount, hn.quota⟩
  simpa [slotStateOk] using ⟨hstate.1, hn.entries_of_unbound hopen hunbound⟩

theorem TableStep.keeps_tablesOk (hs : TablesOk s) (h : TableStep s es t) : TablesOk t := by
  cases h with
  | openMap hclosed => exact hs.openMap hclosed
  | drain hopen hunbound => exact hs.drain hopen hunbound
  | @fallback n =>
    have hn := hs.slots n
    exact hs.setSlot ⟨.inl rfl, hn.state, hn.privCount, hn.sharedCount, hn.quota⟩
  | @quota n k hcount hmax =>
    have hn := hs.slots n
    exact hs.setSlot ⟨.inl rfl, hn.state, hn.privCount, hn.sharedCount, ⟨hcount, hmax⟩⟩
  | bindHeldShared hopen hi hunbound hlookup hholders => exact hs.bindHeldShared hopen hi hunbound hlookup hholders
  | bindNewShared hopen hi hunbound hlookup hfree => exact hs.bindNewShared hopen hi hunbound hlookup hfree
  | bindPrivate hopen hi hunbound hquota hfree => exact hs.bindPrivate hopen hi hunbound hquota hfree
  | setValue hcell => exact hs.setValue hcell
  | release hopen hentry => exact hs.release hopen hentry
  | merge hopen hentry hcell hlookup hholders => exact hs.merge hopen hentry hcell hlookup hholders
  | freeze hopen hentry hcell hlookup => exact hs.freeze hopen hentry hcell hlookup

theorem TableSteps.keeps_tablesOk (h : TableSteps s es t) (hs : TablesOk s) : TablesOk t :=
  h.keeps TableStep.keeps_tablesOk hs

end Sys2Proof.Machine
end

section
/-! PROOFS. The invariant of the working tables at every step (spec/01, spec/02, spec/03). -/

namespace Sys2Proof.Machine

variable {s t u : State} {n : SlotNo} {i j : Nat} {p : Port} {c : Command} {cmd : List Byte} {es : List Edit}
  {is : List Nat} {b : Batch} {rest : List Batch}

/-! ## The release walk (R32) -/

theorem State.entry_releaseEntries (j : Nat) :
    (s.releaseEntries n is).entry n j = if j ∈ is then none else s.entry n j := by
  induction is generalizing s with
  | nil => simp
  | cons i is ih =>
    rw [State.releaseEntries_cons, ih, State.entry_releaseEntry]
    by_cases hj : j = i <;> simp [hj]

/-- The walk covers every bound entry of an OPEN slot. -/
theorem TablesOk.mem_walkIndices (hs : TablesOk s) (hopen : (s.slot n).state = .opened) :
    j ∈ s.walkIndices n ↔ ∃ d, s.entry n j = some d := by
  refine State.mem_boundAmong.trans (and_iff_right_of_imp fun ⟨d, hd⟩ => List.mem_range.2 ?_)
  exact (hs.slots n).length_entries hopen ▸ s.entry_lt hd

theorem TablesOk.unbound_after_walk (hs : TablesOk s) (hopen : (s.slot n).state = .opened) (j : Nat) :
    (s.releaseEntries n (s.walkIndices n)).entry n j = none := by
  rw [State.entry_releaseEntries]
  split
  case isTrue => rfl
  case isFalse hj =>
    rw [hs.mem_walkIndices hopen] at hj
    exact Option.eq_none_iff_forall_ne_some.2 fun d hd => hj ⟨d, hd⟩

/-- The close of a map: the walk releases one entry after another, then the slot drains. -/
theorem TablesOk.drainSlot_steps (hs : TablesOk s) (hopen : (s.slot n).state = .opened) :
    TableSteps s (((s.walkIndices n).map fun i => .entry n i none) ++ [.mapClose n]) (s.drainSlot n) := by
  have hnodup : (s.walkIndices n).Nodup := List.nodup_range.filter _
  refine (TableSteps.releaseEntries hopen hnodup fun i hi => (hs.mem_walkIndices hopen).1 hi).append
    (.single (.drain ?_ (hs.unbound_after_walk hopen)))
  rw [SlotKept.releaseEntries.slot]
  exact hopen

/-! ## The executed rows -/

theorem TablesOk.of_same (hs : TablesOk s) (hcells : SameCells s t) (hslots : t.slots = s.slots) : TablesOk t :=
  hs.of_slotRevised hcells fun m => by
    rw [State.slot, hslots]
    exact .refl (hs.slots m)

theorem TablesOk.raiseRevoked {o : Option Port} (hs : TablesOk s) : TablesOk (s.raiseRevoked n o) := by
  cases o with
  | none => exact hs
  | some o => exact hs.of_same ⟨by simp [State.raiseRevoked], by simp [State.raiseRevoked],
      by simp [State.raiseRevoked]⟩ (by simp [State.raiseRevoked])

theorem WorkingChange.keeps_tablesOk (h : WorkingChange s p c u es) (hs : TablesOk s) : TablesOk u := by
  cases h with
  | tables h => exact h.keeps_tablesOk hs
  | lowCells h => exact (h.keeps_tablesOk hs).of_same ⟨by simp, by simp, by simp⟩ (by simp)
  | close hopen => exact (hs.drainSlot_steps hopen).keeps_tablesOk hs
  | forceClose hopen => exact ((hs.drainSlot_steps hopen).keeps_tablesOk hs).raiseRevoked
  | notices => exact hs.of_same ⟨by simp, by simp, by simp⟩ (by simp)
  | band => exact hs
  | config => exact hs.of_same ⟨rfl, rfl, rfl⟩ rfl
  | blank => exact hs.of_same ⟨rfl, rfl, rfl⟩ rfl

theorem Accepts.keeps_tablesOk (h : Accepts s p c cmd t) (hs : TablesOk s) : TablesOk t := by
  cases h with
  | plain h => exact h.keeps_tablesOk hs
  | batched h => exact (h.keeps_tablesOk hs).of_same ⟨rfl, rfl, rfl⟩ rfl

theorem TablesOk.deliver (hs : TablesOk s) : TablesOk (s.deliver p (answerOf c p cmd s)) := by
  obtain ⟨code, -, hanswer⟩ | ⟨t, fields, hanswer⟩ | ⟨-, b, -, hanswer⟩ := answerOf_cases c p cmd s <;> rw [hanswer]
  · exact hs.of_same ⟨State.deliver_cells .., State.deliver_freeList .., State.deliver_sharedIndex ..⟩
      (State.deliver_slots ..)
  · exact ((answerOf_accepts hanswer).1.keeps_tablesOk hs).of_same
      ⟨State.deliver_cells .., State.deliver_freeList .., State.deliver_sharedIndex ..⟩ (State.deliver_slots ..)
  · exact hs.of_same ⟨State.deliver_cells .., State.deliver_freeList .., State.deliver_sharedIndex ..⟩
      (State.deliver_slots ..)

/-- A DRAINING slot that closes loses its entry list, in which nothing is bound (R41). -/
theorem SlotOk.closed (h : SlotOk s n) (hdraining : (s.slot n).state = .draining) :
    SlotRevised s n { s.slot n with state := .closed, owner := none, entries := [] } := by
  have hunbound : ∀ e ∈ (s.slot n).entries, e = none := by
    rw [h.entries_of_draining hdraining]
    exact fun _ => List.eq_of_mem_replicate
  exact ⟨.inr ⟨nofun, hunbound⟩, by simp [slotStateOk], h.privCount.trans (countP_of_unbound hunbound _),
    h.sharedCount.trans (countP_of_unbound hunbound _), h.quota⟩

theorem TablesOk.applyBatch (hs : TablesOk s) : TablesOk (s.applyBatch b rest) :=
  hs.of_slotRevised ⟨rfl, rfl, rfl⟩ fun m => by
    rw [State.slot_applyBatch]
    split
    case isTrue hcloses => exact (hs.slots m).closed hcloses.2
    case isFalse => exact .refl (hs.slots m)

theorem TablesOk.setPending (hs : TablesOk s) (l : List Instr) : TablesOk { s with pending := l } :=
  hs.of_same ⟨rfl, rfl, rfl⟩ rfl

theorem ExecStep.keeps_tablesOk {i : Instr} (hs : TablesOk s) (h : ExecStep s i t) : TablesOk t := by
  cases h with
  | partReset k => exact (tablesOk_resetWith k).setPending _
  | frameStart => exact hs.of_same ⟨rfl, rfl, rfl⟩ rfl
  | lineStart => exact hs.of_same ⟨rfl, rfl, rfl⟩ rfl
  | blankStart => rw [State.beginCommit_frame]; exact hs.of_same ⟨rfl, rfl, rfl⟩ rfl
  | pixelEvent => exact hs.of_same ⟨rfl, rfl, rfl⟩ rfl
  | commitTimerExpiry => rw [State.beginCommit_timerExpired_frame]; exact hs.of_same ⟨rfl, rfl, rfl⟩ rfl
  | @batchApplied b rest =>
    rw [State.continueCommit_frame]
    exact (hs.applyBatch (b := b) (rest := rest)).of_same ⟨rfl, rfl, rfl⟩ rfl
  | access => exact hs.of_same ⟨by simp, by simp, by simp⟩ (by simp)
  | command => exact hs.deliver

/-- Settles O7: each elementary change of the tables keeps the invariant, and a command is a succession of them;
the application of a batch takes a DRAINING slot to CLOSED. -/
theorem stepKeepsTablesOk : Obligations.StepKeepsTablesOk := fun _ _ hs h =>
  step_keeps (fun _ l hs => hs.setPending l) (fun _ _ _ => ExecStep.keeps_tablesOk) hs h

end Sys2Proof.Machine
end

section
/-! PROOFS. The display copies after the edits of an elementary change of the working tables (spec/02, R42; spec/04,
R88; spec/01, R18). -/

namespace Sys2Proof.Machine

variable {s t u : State} {n m : SlotNo} {i j k : Nat} {p : Port} {c x : CellNo} {v old : Colour} {es : List Edit}
  {is : List Nat} {e : Option CellNo} {d d' : Display} {y z : Slot} {shown : SlotDisplay}

/-! ## The display part of a slot -/

theorem slotMatches_opened (h : y.state = .opened) :
    slotMatches y shown ↔ shown = ⟨true, y.size, y.fallback, y.entries⟩ := by
  simp only [slotMatches, h]

theorem slotMatches_of_not_opened (h : y.state ≠ .opened) :
    slotMatches y shown ↔ shown.shown = false ∧ ∀ e ∈ shown.entries, e = none := by
  unfold slotMatches
  split
  · exact absurd ‹_› h
  · rfl

/-- The counts, the quota and the owner of a slot are not displayed. -/
theorem slotMatches_congr (hstate : z.state = y.state) (hsize : z.size = y.size) (hfallback : z.fallback = y.fallback)
    (hentries : z.entries = y.entries) : slotMatches z shown ↔ slotMatches y shown := by
  simp only [slotMatches, hstate, hsize, hfallback, hentries]

/-- The slots keep what is displayed, and so do the values of the bound cells. -/
theorem Agrees.of_same (h : Agrees s d) (hslots : ∀ m, slotMatches (t.slot m) d.slots[m])
    (hblank : t.config.blank = s.config.blank)
    (hcells : ∀ m j x, t.entry m j = some x → s.entry m j = some x ∧ t.workingValue x = s.workingValue x) :
    Agrees t d where
  slots := hslots
  blank := by rw [hblank]; exact h.blank
  cells m j x hx := by
    obtain ⟨hbound, hvalue⟩ := hcells m j x hx
    rw [hvalue]
    exact h.cells m j x hbound

theorem Agrees.of_tables (h : Agrees s d) (hcells : t.cells = s.cells) (hslots : t.slots = s.slots)
    (hblank : t.config.blank = s.config.blank) : Agrees t d :=
  h.of_same (fun m => by rw [State.slot, hslots]; exact h.slots m) hblank fun m j x hx =>
    ⟨by rwa [State.entry, State.slot, hslots] at hx, by rw [State.workingValue, State.cell, hcells]; rfl⟩

/-! ## A slot changed without its bindings -/

/-- One slot is changed, and its display part; what it binds, it bound before. -/
theorem Agrees.setSlot (h : Agrees s d) (hmatches : slotMatches y shown)
    (hentries : ∀ j x, y.entries.getD j none = some x → s.entry n j = some x) :
    Agrees (s.setSlot n y) (d.setSlot n shown) where
  slots m := by
    rw [Display.slots_setSlot, State.slot_setSlot]
    split
    · exact hmatches
    · exact h.slots m
  blank := h.blank
  cells m j x hx := by
    refine h.cells m j x ?_
    rw [State.entry, State.slot_setSlot] at hx
    split at hx
    case isTrue hm => subst hm; exact hentries j x hx
    case isFalse => exact hx

theorem Agrees.openMap {size : MapSize} (h : Agrees s d) :
    Agrees (s.setSlot n ((s.slot n).openedFor p size)) (d.applyEdit (.mapOpen n size)) :=
  h.setSlot ((slotMatches_opened rfl).2 rfl) fun j x hx => by
    rw [Slot.openedFor, getD_of_unbound fun _ => List.eq_of_mem_replicate] at hx
    cases hx

theorem Agrees.drain (h : Agrees s d) :
    Agrees (s.setSlot n { s.slot n with state := .draining }) (d.applyEdit (.mapClose n)) :=
  h.setSlot ((slotMatches_of_not_opened (by simp)).2 ⟨rfl, fun _ => List.eq_of_mem_replicate⟩) fun _ _ hx => hx

theorem Agrees.fallback (h : Agrees s d) (hopen : (s.slot n).state = .opened) :
    Agrees (s.setSlot n { s.slot n with fallback := v }) (d.applyEdit (.mapFallback n v)) := by
  refine h.setSlot ((slotMatches_opened (by exact hopen)).2 ?_) fun _ _ hx => hx
  rw [(slotMatches_opened hopen).1 (h.slots n)]

theorem Agrees.quota (h : Agrees s d) : Agrees (s.setSlot n { s.slot n with quota := k }) d :=
  h.of_same (fun m => by
    rw [State.slot_setSlot]
    split
    · subst m; exact (slotMatches_congr rfl rfl rfl rfl).2 (h.slots n)
    · exact h.slots m) rfl fun m j x hx => by
    rw [State.entry, State.slot_setSlot] at hx
    split at hx
    · subst m; exact ⟨hx, rfl⟩
    · exact ⟨hx, rfl⟩

/-! ## An entry rebound -/

theorem Rebind.entry_cases (h : Rebind s t n i e) (hx : t.entry m j = some x) :
    e = some x ∨ ¬ (m = n ∧ j = i) ∧ s.entry m j = some x := by
  rw [h.entry] at hx
  split at hx
  case isTrue => exact .inl hx
  case isFalse hother => exact .inr ⟨hother, hx⟩

/-- An entry of an OPEN slot is rebound, in the tables and in the display copies. -/
theorem Agrees.of_rebind (h : Agrees s d) (hrebind : Rebind s t n i e) (hopen : (s.slot n).state = .opened)
    (hblank : t.config.blank = s.config.blank) (hslots : d'.slots = d.slots) (hshown : d'.blank = d.blank)
    (hnew : ∀ x, e = some x → d'.cells[x] = t.workingValue x)
    (hkept : ∀ m j x, ¬ (m = n ∧ j = i) → s.entry m j = some x → d'.cells[x] = t.workingValue x) :
    Agrees t (d'.applyEdit (.entry n i e)) where
  slots m := by
    rw [Display.applyEdit, Display.slots_setSlot]
    by_cases hm : m = n
    · subst hm
      rw [if_pos rfl, hrebind.slot, hslots, (slotMatches_opened hopen).1 (h.slots m)]
      exact (slotMatches_opened (by exact hopen)).2 rfl
    · rw [if_neg hm, hrebind.others m hm, hslots]
      exact h.slots m
  blank := by rw [hblank, ← h.blank, ← hshown]; rfl
  cells m j x hx := by
    obtain hx | ⟨hother, hx⟩ := hrebind.entry_cases hx
    · exact hnew x hx
    · exact hkept m j x hother hx

theorem State.workingValue_congr (h : t.cell x = s.cell x) : t.workingValue x = s.workingValue x := by
  rw [State.workingValue, h, State.workingValue]

theorem State.workingValue_of_shared (h : s.cell c = .shared v k) : s.workingValue c = v := by
  rw [State.workingValue, h]

theorem Display.cells_set (d : Display) (c x : CellNo) (v : Colour) :
    (d.applyEdit (.cellValue c v)).cells[x] = if x = c then v else d.cells[x] := by
  obtain ⟨-, hself, hothers⟩ := d.applyEdit_effect (.cellValue c v)
  split
  · subst x; exact hself
  · exact hothers x ‹_›

/-- A cell that was FREE is bound, with its value set. -/
theorem Agrees.of_newCell (h : Agrees s d) (hs : TablesOk s) (hrebind : Rebind s t n i (some c))
    (hopen : (s.slot n).state = .opened) (hblank : t.config.blank = s.config.blank)
    (hfree : s.freeList.head? = some c) (hvalue : t.workingValue c = v)
    (hcell : ∀ x, x ≠ c → t.cell x = s.cell x) :
    Agrees t (d.applyEdits [.cellValue c v, .entry n i (some c)]) := by
  obtain ⟨-, hcount, -⟩ := hs.cells.head_free hfree
  refine h.of_rebind (d' := d.applyEdit (.cellValue c v)) hrebind hopen hblank rfl rfl (fun x hx => ?_)
    fun m j x _ hx => ?_
  · cases hx
    rw [Display.cells_set, if_pos rfl, hvalue]
  · have hxc : x ≠ c := fun hxc => boundCount_eq_zero hcount m j (hxc ▸ hx)
    rw [Display.cells_set, if_neg hxc, State.workingValue_congr (hcell x hxc)]
    exact h.cells m j x hx

/-- A SHARED cell of the value is bound to one more entry; it was displayed for the holders that it had. -/
theorem Agrees.of_heldCell (h : Agrees s d) (hs : TablesOk s) (hrebind : Rebind s t n i (some c))
    (hopen : (s.slot n).state = .opened) (hblank : t.config.blank = s.config.blank) (hlookup : s.lookup v = some c)
    (hvalue : t.workingValue c = v)
    (hkept : ∀ m j x, ¬ (m = n ∧ j = i) → s.entry m j = some x → x ≠ c → t.cell x = s.cell x) :
    Agrees t (d.applyEdits [.entry n i (some c)]) := by
  obtain ⟨k, hc⟩ := hs.cells.shared_of_pair (State.lookup_some hlookup)
  obtain ⟨-, -, hcount, hone, -⟩ := hs.cells.of_shared hc
  have hshown : d.cells[c] = t.workingValue c := by
    obtain ⟨m, j, hbound⟩ := exists_entry_of_boundCount (s := s) (c := c) (by omega)
    rw [h.cells m j c hbound, State.workingValue_of_shared hc, hvalue]
  refine h.of_rebind (d' := d) hrebind hopen hblank rfl rfl (fun x hx => ?_) fun m j x hother hx => ?_
  · cases hx; exact hshown
  · by_cases hxc : x = c
    · subst hxc; exact hshown
    · rw [State.workingValue_congr (hkept m j x hother hx hxc)]
      exact h.cells m j x hx

/-- A cell that another entry still binds keeps its value when an entry is released (R8, R9). -/
theorem TablesOk.workingValue_releaseEntry (hs : TablesOk s) (hother : ¬ (m = n ∧ j = i))
    (hx : s.entry m j = some x) : (s.releaseEntry n i).workingValue x = s.workingValue x := by
  obtain hi | ⟨c, v, hi, hc⟩ | ⟨c, v, k, hi, hc⟩ := hs.cells.entry_cases n i
  · rw [State.releaseEntry_unbound hi]
  · have hxc := ne_of_boundCount_one (hs.cells.of_priv hc).2.2 hi hother hx
    exact State.workingValue_congr ((State.cell_releaseEntry_priv hi hc).trans (if_neg hxc))
  · have hcell := State.cell_releaseEntry_shared (d := x) hi hc
    by_cases hxc : x = c
    · subst hxc
      have htwo := two_le_boundCount hx hi hother
      have hcount := (hs.cells.of_shared hc).2.2.1
      rw [if_pos rfl, if_neg (by omega)] at hcell
      rw [State.workingValue_of_shared hcell, State.workingValue_of_shared hc]
    · exact State.workingValue_congr (hcell.trans (if_neg hxc))

theorem Agrees.release (h : Agrees s d) (hs : TablesOk s) (hopen : (s.slot n).state = .opened)
    (hentry : s.entry n i = some c) : Agrees (s.releaseEntry n i) (d.applyEdit (.entry n i none)) :=
  h.of_rebind (rebind_releaseEntry hentry) hopen (by simp) rfl rfl nofun fun m j x hother hx => by
    rw [hs.workingValue_releaseEntry hother hx]
    exact h.cells m j x hx

/-! ## Each elementary change -/

theorem Agrees.setValue (h : Agrees s d) (hc : s.cell c = .priv old m j) :
    Agrees (s.setPrivValue c v) (d.applyEdit (.cellValue c v)) where
  slots n := by rw [State.setPrivValue_slot]; exact h.slots n
  blank := by rw [State.setPrivValue_config]; exact h.blank
  cells n i x hx := by
    rw [State.entry, State.setPrivValue_slot] at hx
    rw [Display.cells_set]
    split
    · subst x
      exact (State.workingValue_of_priv (State.cell_setPrivValue_of_priv hc)).symm
    · rw [State.workingValue_congr (State.cell_setPrivValue_of_ne ‹_›)]
      exact h.cells n i x hx

theorem Agrees.freeze (h : Agrees s d) (hc : s.cell c = .priv v m j) : Agrees (freezeInPlace s n c v) d := by
  refine h.of_same (fun m => ?_) rfl fun m j x hx => ⟨?_, ?_⟩
  · rw [slot_freezeInPlace]
    split
    · subst m; exact (slotMatches_congr rfl rfl rfl rfl).2 (h.slots n)
    · exact h.slots m
  · rw [State.entry, slot_freezeInPlace] at hx
    split at hx
    · subst m; exact hx
    · exact hx
  · have hcell := cell_freezeInPlace (s := s) (n := n) (c := c) (v := v) x
    split at hcell
    · subst x
      rw [State.workingValue_of_shared hcell, State.workingValue_of_priv hc]
    · exact State.workingValue_congr hcell

theorem TableStep.agrees (hs : TablesOk s) (h : Agrees s d) (hstep : TableStep s es t) :
    Agrees t (d.applyEdits es) := by
  cases hstep with
  | openMap => exact h.openMap
  | drain => exact h.drain
  | fallback hopen => exact h.fallback hopen
  | quota => exact h.quota
  | bindHeldShared hopen hi hunbound hlookup =>
    exact h.of_heldCell hs (hs.rebind_bindHeldShared hopen hi) hopen rfl hlookup
      (State.workingValue_of_shared ((State.cell_bindHeldShared _).trans (if_pos rfl)))
      fun _ _ x _ _ hx => (State.cell_bindHeldShared x).trans (if_neg hx)
  | bindNewShared hopen hi hunbound hlookup hfree =>
    exact h.of_newCell hs (hs.rebind_bindNewShared hopen hi) hopen rfl hfree
      (State.workingValue_of_shared ((State.cell_bindNewShared _).trans (if_pos rfl)))
      fun x hx => (State.cell_bindNewShared x).trans (if_neg hx)
  | bindPrivate hopen hi hunbound hquota hfree =>
    exact h.of_newCell hs (hs.rebind_bindPrivate hopen hi) hopen rfl hfree
      (State.workingValue_of_priv ((State.cell_bindPrivate _).trans (if_pos rfl)))
      fun x hx => (State.cell_bindPrivate x).trans (if_neg hx)
  | setValue hcell => exact h.setValue hcell
  | release hopen hentry => exact h.release hs hopen hentry
  | @merge n m i j c x v hopen hentry hcell hlookup =>
    obtain ⟨k, hx⟩ := hs.cells.shared_of_pair (State.lookup_some hlookup)
    have hxc : x ≠ c := ne_of_cell_ne (by rw [hx, hcell]; nofun)
    refine h.of_heldCell hs (.of_slots (s.entry_lt hentry) slot_mergeInto rfl) hopen rfl hlookup
      (State.workingValue_of_shared ((cell_mergeInto _).trans ((if_neg hxc).trans (if_pos rfl))))
      fun m' j' y hother hy hyx => ?_
    have hyc := ne_of_boundCount_one (hs.cells.of_priv hcell).2.2 hentry hother hy
    exact (cell_mergeInto y).trans ((if_neg hyc).trans (if_neg hyx))
  | freeze hopen hentry hcell => exact h.freeze hcell

theorem TableSteps.agrees (hs : TablesOk s) (h : Agrees s d) (hsteps : TableSteps s es t) :
    Agrees t (d.applyEdits es) := by
  induction hsteps generalizing d with
  | nil => exact h
  | cons head _ ih =>
    rw [Display.applyEdits_append]
    exact ih (head.keeps_tablesOk hs) (head.agrees hs h)

/-! ## The close of a map, which stages one edit for all the entries (R32, R41) -/

theorem Display.applyEdit_mapClose_after_release (d : Display) (n : SlotNo) (i : Nat) :
    (d.applyEdit (.entry n i none)).applyEdit (.mapClose n) = d.applyEdit (.mapClose n) := by
  simp [Display.applyEdit, Display.setSlot]

theorem Display.applyEdits_walk (d : Display) (n : SlotNo) (is : List Nat) :
    d.applyEdits ((is.map fun i => .entry n i none) ++ [.mapClose n]) = d.applyEdits [.mapClose n] := by
  induction is generalizing d with
  | nil => rfl
  | cons i is ih =>
    rw [List.map_cons, List.cons_append, Display.applyEdits_cons, ih]
    exact d.applyEdit_mapClose_after_release n i

theorem Agrees.drainSlot (h : Agrees s d) (hs : TablesOk s) (hopen : (s.slot n).state = .opened) :
    Agrees (s.drainSlot n) (d.applyEdits [.mapClose n]) :=
  d.applyEdits_walk n (s.walkIndices n) ▸ (hs.drainSlot_steps hopen).agrees hs h

end Sys2Proof.Machine
end

section
/-! PROOFS. The display copies follow the working state at every step (spec/04, R88; spec/02, R42), and SET_BAND
(spec/05, R115, R116). -/

namespace Sys2Proof.Machine

variable {s t u : State} {n : SlotNo} {p : Port} {c : Command} {cmd : List Byte} {es : List Edit} {d : Display}
  {b : Batch} {rest : List Batch} {i : Instr} {k : BandNo}

/-! ## SET_BAND -/

theorem bandOfByte_ofNat (k : BandNo) : bandOfByte (BitVec.ofNat 8 k.val) = some k := by
  revert k
  decide

theorem answerSetBand_staged {enable hi lo base : Byte} (hcontrol : s.controlPort = p)
    (hline : hi.toNat * 256 + lo.toNat ≤ 2047) :
    answerSetBand p [0x32, BitVec.ofNat 8 k.val, enable, hi, lo, slotByte n, base] s =
      staged s p [.band k ⟨enable ≠ 0, hi.toNat * 256 + lo.toNat, n, base⟩] [] := by
  unfold answerSetBand
  rw [show byteAt [0x32, BitVec.ofNat 8 k.val, enable, hi, lo, slotByte n, base] 2 = BitVec.ofNat 8 k.val from rfl,
    bandOfByte_ofNat]
  exact (check_pos hline).trans <| (withSlot_slotByte n _).trans <| check_pos hcontrol.symm

/-- Settles O51: the working state is kept, and the one edit staged. -/
theorem setBandStagesRecord : Obligations.SetBandStagesRecord := by
  intro p s k n enable hi lo base hgrant hcontrol hline hroom
  obtain ⟨t, hexec, hdelivers, hnotices, happended⟩ := hgrant.delivers_staged (c := .setBand) rfl (.refl s)
    (answerSetBand_staged hcontrol hline) hroom
  exact ⟨t, (exec_commandRow .setBand p s).trans hexec, hdelivers.answered, hdelivers.frame, hdelivers.tables,
    hdelivers.slots, hdelivers.config, hnotices, happended⟩

/-! ## The display copies to come -/

/-- The display copies once every queued edit has been applied (R80, R88). -/
def State.displayToCome (s : State) : Display := s.display.applyEdits (queuedEdits s)

theorem displayFollows_iff : DisplayFollows s ↔ Agrees s s.displayToCome := Iff.rfl

theorem bandsToCome_eq (s : State) : bandsToCome s = s.displayToCome.bands := rfl

theorem State.displayToCome_congr (hqueue : t.queue = s.queue) (hdisplay : t.display = s.display) :
    t.displayToCome = s.displayToCome := by
  rw [State.displayToCome, queuedEdits, hqueue, hdisplay]
  rfl

theorem State.displayToCome_append (hqueue : t.queue = s.queue ++ [b]) (hdisplay : t.display = s.display) :
    t.displayToCome = s.displayToCome.applyEdits b.edits := by
  rw [State.displayToCome, queuedEdits, hqueue, hdisplay, List.flatMap_append, Display.applyEdits_append,
    List.flatMap_singleton]
  rfl

/-- The head batch is applied now, not later (R76, R85). -/
theorem State.displayToCome_batchApplied (hqueue : s.queue = b :: rest) :
    (s.applyBatch b rest).continueCommit.displayToCome = s.displayToCome := by
  rw [State.continueCommit_frame]
  change (s.display.applyEdits b.edits).applyEdits (rest.flatMap fun b => b.edits) = _
  rw [← Display.applyEdits_append, State.displayToCome, queuedEdits, hqueue, List.flatMap_cons]

/-! ## An executed command -/

theorem Agrees.raiseRevoked {o : Option Port} (h : Agrees s d) : Agrees (s.raiseRevoked n o) d := by
  cases o with
  | none => exact h
  | some o =>
    exact h.of_tables (by simp [State.raiseRevoked]) (by simp [State.raiseRevoked]) (by simp [State.raiseRevoked])

theorem WorkingChange.agrees (h : WorkingChange s p c u es) (hs : TablesOk s) (hd : Agrees s d) :
    Agrees u (d.applyEdits es) := by
  cases h with
  | tables h => exact h.agrees hs hd
  | lowCells h => exact (h.agrees hs hd).of_tables (by simp) (by simp) (by simp)
  | close hopen => exact hd.drainSlot hs hopen
  | forceClose hopen => exact (hd.drainSlot hs hopen).raiseRevoked
  | notices => exact hd.of_tables (by simp) (by simp) (by simp)
  | band => exact ⟨hd.slots, hd.blank, hd.cells⟩
  | config => exact hd.of_tables rfl rfl rfl
  | blank => exact ⟨hd.slots, rfl, hd.cells⟩

/-- What an accepted command stages brings the display copies after its working changes (R18, R42). -/
theorem Accepts.agrees (h : Accepts s p c cmd t) (hs : TablesOk s) (hd : Agrees s s.displayToCome) :
    Agrees t t.displayToCome := by
  cases h with
  | plain h =>
    rw [State.displayToCome_congr h.untouched.queue h.untouched.display]
    exact h.agrees hs hd
  | @batched u es h =>
    have hcome : u.displayToCome = s.displayToCome :=
      State.displayToCome_congr h.untouched.queue h.untouched.display
    rw [State.displayToCome_append (s := u) (State.queue_appendBatch ..) rfl, hcome]
    exact (h.agrees hs hd).of_tables rfl rfl rfl

theorem State.displayToCome_deliver (s : State) (p : Port) (a : Answer) :
    (s.deliver p a).displayToCome = (a.tables s).displayToCome :=
  State.displayToCome_congr (s.deliver_queue p a) (s.deliver_display p a)

theorem Agrees.deliver {a : Answer} (h : Agrees (a.tables s) d) : Agrees (s.deliver p a) d :=
  h.of_tables (s.deliver_cells p a) (s.deliver_slots p a) (by rw [State.deliver_config])

theorem DisplayFollows.deliver (h : DisplayFollows s) (hs : TablesOk s) :
    DisplayFollows (s.deliver p (answerOf c p cmd s)) := by
  rw [displayFollows_iff, State.displayToCome_deliver]
  obtain ⟨code, -, hanswer⟩ | ⟨t, fields, hanswer⟩ | ⟨-, b, -, hanswer⟩ := answerOf_cases c p cmd s <;> rw [hanswer]
  · exact Agrees.deliver (a := .refusal code) h
  · exact Agrees.deliver (a := .accepted t fields) ((answerOf_accepts hanswer).1.agrees hs h)
  · exact Agrees.deliver (a := .fence b.number) h

/-! ## Every step -/

theorem DisplayFollows.of_same (h : DisplayFollows s) (hqueue : t.queue = s.queue) (hdisplay : t.display = s.display)
    (hcells : t.cells = s.cells) (hslots : t.slots = s.slots) (hblank : t.config.blank = s.config.blank) :
    DisplayFollows t := by
  rw [displayFollows_iff, State.displayToCome_congr hqueue hdisplay]
  exact Agrees.of_tables h hcells hslots hblank

theorem DisplayFollows.setPending (h : DisplayFollows s) (l : List Instr) : DisplayFollows { s with pending := l } :=
  h.of_same rfl rfl rfl rfl rfl

/-- A DRAINING slot and a CLOSED one call for the same display part (R42). -/
theorem Agrees.applyBatch (h : Agrees s d) : Agrees (s.applyBatch b rest) d := by
  refine h.of_same (fun m => ?_) rfl fun m j x hx => ⟨?_, rfl⟩
  · rw [State.slot_applyBatch]
    split
    case isTrue hcloses =>
      have hm := (slotMatches_of_not_opened (by rw [hcloses.2]; nofun)).1 (h.slots m)
      exact (slotMatches_of_not_opened (by simp)).2 hm
    case isFalse => exact h.slots m
  · rw [State.entry, State.slot_applyBatch] at hx
    split at hx
    · cases hx
    · exact hx

theorem ExecStep.keeps_displayFollows (hs : TablesOk s) (hd : DisplayFollows s) (h : ExecStep s i t) :
    DisplayFollows t := by
  cases h with
  | partReset k => exact (displayFollows_resetWith k).setPending _
  | frameStart => exact hd.of_same rfl rfl rfl rfl rfl
  | lineStart => exact hd.of_same rfl rfl rfl rfl rfl
  | blankStart => rw [State.beginCommit_frame]; exact hd.of_same rfl rfl rfl rfl rfl
  | pixelEvent => exact hd.of_same rfl rfl rfl rfl rfl
  | commitTimerExpiry => rw [State.beginCommit_timerExpired_frame]; exact hd.of_same rfl rfl rfl rfl rfl
  | @batchApplied b rest _ hqueue =>
    have hcome := State.displayToCome_batchApplied hqueue
    rw [displayFollows_iff, hcome, State.continueCommit_frame]
    exact (Agrees.applyBatch (b := b) (rest := rest) hd).of_tables rfl rfl rfl
  | access => exact hd.of_same (by simp) (by simp) (by simp) (by simp) (by simp)
  | command => exact hd.deliver hs

/-! ## The band table (R116) -/

theorem WorkingChange.band_notMem (h : WorkingChange s p c u es) (hc : c ≠ .setBand) (k : BandNo) (r : Band) :
    Edit.band k r ∉ es := by
  cases h with
  | tables h => exact h.band_notMem k r
  | lowCells h => exact h.band_notMem k r
  | band => exact absurd rfl hc
  | _ => simp

theorem Accepts.bandsToCome (h : Accepts s p c cmd t) (hc : c ≠ .setBand) :
    Sys2Proof.Machine.bandsToCome t = Sys2Proof.Machine.bandsToCome s := by
  cases h with
  | plain h => exact congrArg Display.bands (State.displayToCome_congr h.untouched.queue h.untouched.display)
  | @batched u es h =>
    have hcome : u.displayToCome = s.displayToCome :=
      State.displayToCome_congr h.untouched.queue h.untouched.display
    rw [bandsToCome_eq, State.displayToCome_append (s := u) (State.queue_appendBatch ..) rfl, hcome]
    exact Display.bands_applyEdits _ _ fun k r => h.band_notMem hc k r

theorem bandsToCome_deliver (hc : c ≠ .setBand) :
    bandsToCome (s.deliver p (answerOf c p cmd s)) = bandsToCome s := by
  rw [bandsToCome_eq, State.displayToCome_deliver]
  obtain ⟨code, -, hanswer⟩ | ⟨t, fields, hanswer⟩ | ⟨-, b, -, hanswer⟩ := answerOf_cases c p cmd s <;> rw [hanswer]
  · rfl
  · exact (answerOf_accepts hanswer).1.bandsToCome hc
  · rfl

theorem ExecStep.bandsToCome (h : ExecStep s i t) (hreset : ∀ k, i ≠ .partReset k) (hband : ∀ p, i ≠ .setBand p) :
    Sys2Proof.Machine.bandsToCome t = Sys2Proof.Machine.bandsToCome s := by
  have hsame (hqueue : t.queue = s.queue) (hdisplay : t.display = s.display) :=
    congrArg Display.bands (State.displayToCome_congr hqueue hdisplay)
  cases h with
  | partReset k => exact absurd rfl (hreset k)
  | frameStart => exact hsame rfl rfl
  | lineStart => exact hsame rfl rfl
  | blankStart => exact hsame (by simp) (by simp [State.blankOpened])
  | pixelEvent => exact hsame rfl rfl
  | commitTimerExpiry =>
    rw [State.beginCommit_timerExpired_frame] at hsame ⊢
    exact hsame rfl rfl
  | batchApplied _ hqueue => exact congrArg Display.bands (State.displayToCome_batchApplied hqueue)
  | access => exact hsame (by simp) (by simp)
  | @command c p => exact bandsToCome_deliver fun hc => hband p (by rw [hc]; rfl)

/-- The head of the queue of commands is the row that a step executes. -/
theorem exec_of_head (h : step s = .next t) (hhead : s.pending.head? = some i) :
    exec i { s with pending := s.pending.tail } = .next t := by
  cases hpending : s.pending with
  | nil => rw [hpending] at hhead; cases hhead
  | cons j rest =>
    rw [hpending] at hhead
    cases hhead
    exact step_of_pending hpending ▸ h

theorem Granted.of_exec (h : Sys2Proof.Machine.exec (commandRow c p) s = .next t)
    (hcollected : (s.port p).collected = cmd) : Granted s p cmd := by
  obtain ⟨hrequest, hturn⟩ := (s.grantedPort_eq p).1 (commandRow_next h).1
  exact ⟨hrequest, hturn, hcollected⟩

/-- The record of an accepted SET_BAND is that of its band once it is applied (R116). -/
theorem bandsToCome_of_appended {r : Band} (happended : Appended s t p [.band k r]) (hdisplay : t.display = s.display) :
    (bandsToCome t)[k] = r ∧ ∀ j : BandNo, j ≠ k → (bandsToCome t)[j] = (bandsToCome s)[j] := by
  rw [bandsToCome_eq, State.displayToCome_append happended.queue hdisplay]
  exact (Display.applyEdit_effect _ (.band k r)).2

theorem bands_partReset (k : CtlSel) (l : List Instr) (j : BandNo) :
    (bandsToCome { State.resetWith k with pending := l })[j] = ⟨false, 0, 0, 0⟩ :=
  Vector.getElem_replicate ..

/-- Settles O9: each elementary change of the tables has the edits that carry it over, and a batch applied is
no longer to come. -/
theorem stepKeepsDisplayFollows : Obligations.StepKeepsDisplayFollows := by
  refine ⟨fun s t hs hd h => ?follows, fun s t h => ⟨fun hreset hband => ?bands, fun k hhead => ?reset,
    fun p k n enable hi lo base hhead hcollected hcontrol hline hroom => ?setBand, fun p hhead hqueue => ?refused⟩⟩
  case follows =>
    have hboth : TablesOk t ∧ DisplayFollows t := step_keeps (P := fun s => TablesOk s ∧ DisplayFollows s)
      (fun s l hs => ⟨hs.1.setPending l, hs.2.setPending l⟩)
      (fun s i t hs h => ⟨h.keeps_tablesOk hs.1, h.keeps_displayFollows hs.1 hs.2⟩) ⟨hs, hd⟩ h
    exact hboth.2
  case bands =>
    obtain ⟨-, rfl⟩ | ⟨i, rest, hpending, hstep⟩ := step_next h
    · rfl
    · rw [hpending] at hreset hband
      exact hstep.bandsToCome (fun k hi => hreset k (by rw [hi]; rfl)) fun p hi => hband p (by rw [hi]; rfl)
  case reset =>
    cases exec_of_head h hhead
    exact bands_partReset k _
  case setBand =>
    have hexec := exec_of_head h hhead
    have hgrant := Granted.of_exec (c := .setBand) hexec hcollected
    obtain ⟨t', hexec', -, hframe, -, -, -, -, happended⟩ :=
      setBandStagesRecord p _ k n enable hi lo base hgrant hcontrol hline hroom
    obtain rfl : t' = t := Host.Outcome.next.inj (hexec'.symm.trans hexec)
    exact bandsToCome_of_appended (s := s) ⟨happended.queue, happended.nextBatch⟩ hframe.display
  case refused =>
    obtain ⟨-, -, ht⟩ := commandRow_next (c := .setBand) (exec_of_head h hhead)
    have hframe := engineFrame_deliver .setBand p (s.port p).collected { s with pending := s.pending.tail }
    exact congrArg Display.bands (State.displayToCome_congr hqueue (by rw [ht]; exact hframe.display))

end Sys2Proof.Machine
end

section
/-! PROOFS. A slot is DRAINING exactly while its one MAP_CLOSE edit is queued (spec/02, R22, R41). -/

namespace Sys2Proof.Machine

variable {s t u : State} {n m : SlotNo} {p : Port} {c : Command} {cmd : List Byte} {es fs : List Edit} {y : Slot}
  {b : Batch} {rest : List Batch} {i : Instr}

/-- The number of MAP_CLOSE edits that a slot has in the queue: one while it is DRAINING (R22). -/
def Slot.closesQueued (x : Slot) : Nat := if x.state = .draining then 1 else 0

theorem drainingOk_iff : DrainingOk s ↔ ∀ n, (queuedEdits s).count (.mapClose n) = (s.slot n).closesQueued := Iff.rfl

theorem Slot.closesQueued_congr {x : Slot} (h : y.state = x.state) : y.closesQueued = x.closesQueued := by
  rw [Slot.closesQueued, h, Slot.closesQueued]

/-- The edits hold a MAP_CLOSE for each slot that the change takes to DRAINING, and no other. -/
def DrainsBy (s t : State) (es : List Edit) : Prop :=
  ∀ m, (s.slot m).closesQueued + es.count (.mapClose m) = (t.slot m).closesQueued

theorem DrainsBy.of_states (hedits : ∀ m, .mapClose m ∉ es) (hstates : ∀ m, (t.slot m).state = (s.slot m).state) :
    DrainsBy s t es := fun m => by
  rw [List.count_eq_zero.2 (hedits m), Slot.closesQueued_congr (hstates m)]
  rfl

theorem DrainsBy.trans (h : DrainsBy s t es) (h' : DrainsBy t u fs) : DrainsBy s u (es ++ fs) := fun m => by
  rw [List.count_append, ← Nat.add_assoc, h m, h' m]

/-- One slot is changed, and neither before nor after is it DRAINING. -/
theorem DrainsBy.setSlot (hedits : ∀ m, .mapClose m ∉ es) (hcount : y.closesQueued = (s.slot n).closesQueued) :
    DrainsBy s (s.setSlot n y) es := fun m => by
  rw [List.count_eq_zero.2 (hedits m), State.slot_setSlot]
  split
  · subst m; exact hcount.symm
  · rfl

/-- An OPEN slot that drains has its MAP_CLOSE staged (R32). -/
theorem DrainsBy.drained (hopen : (s.slot n).state = .opened)
    (hstates : ∀ m, (t.slot m).state = if m = n then .draining else (s.slot m).state) :
    DrainsBy s t [.mapClose n] := fun m => by
  rw [Slot.closesQueued, Slot.closesQueued, hstates]
  by_cases hm : m = n
  · subst hm; simp [hopen]
  · simp [hm, Ne.symm hm]

/-- The slots after the change of one of them that keeps its state. -/
theorem state_of_slots (h : ∀ m, t.slot m = if m = n then y else s.slot m) (hy : y.state = (s.slot n).state)
    (m : SlotNo) : (t.slot m).state = (s.slot m).state := by
  rw [h]
  split
  · subst m; exact hy
  · rfl

theorem TableStep.drainsBy (h : TableStep s es t) : DrainsBy s t es := by
  cases h with
  | openMap hclosed => exact .setSlot (by simp) (by simp [Slot.closesQueued, Slot.openedFor, hclosed])
  | drain hopen =>
    refine .drained hopen fun m => ?_
    rw [State.slot_setSlot]
    split <;> rfl
  | fallback => exact .setSlot (by simp) (Slot.closesQueued_congr rfl)
  | quota => exact .setSlot (by simp) (Slot.closesQueued_congr rfl)
  | bindHeldShared => exact .of_states (by simp) (state_of_slots State.slot_bindHeldShared rfl)
  | bindNewShared => exact .of_states (by simp) (state_of_slots State.slot_bindNewShared rfl)
  | bindPrivate => exact .of_states (by simp) (state_of_slots State.slot_bindPrivate rfl)
  | setValue => exact .of_states (by simp) fun m => by rw [State.setPrivValue_slot]
  | release => exact .of_states (by simp) State.state_releaseEntry
  | merge => exact .of_states (by simp) (state_of_slots slot_mergeInto rfl)
  | freeze => exact .of_states (by simp) (state_of_slots slot_freezeInPlace rfl)

theorem TableSteps.drainsBy (h : TableSteps s es t) : DrainsBy s t es := by
  induction h with
  | nil => exact fun _ => rfl
  | cons head _ ih => exact head.drainsBy.trans ih

theorem State.state_drainSlot (m : SlotNo) :
    ((s.drainSlot n).slot m).state = if m = n then .draining else (s.slot m).state := by
  rw [State.drainSlot, State.slot_setSlot]
  split
  case isTrue => rfl
  case isFalse hm => rw [SlotKept.releaseEntries.others m hm]

theorem State.slot_raiseRevoked {o : Option Port} (m : SlotNo) : (s.raiseRevoked n o).slot m = s.slot m := by
  cases o with
  | none => rfl
  | some o => exact State.raise_slot ..

theorem DrainsBy.of_slots (h : DrainsBy s t es) (hslots : ∀ m, u.slot m = t.slot m) : DrainsBy s u es := fun m => by
  rw [hslots]
  exact h m

theorem WorkingChange.drainsBy (h : WorkingChange s p c u es) : DrainsBy s u es := by
  cases h with
  | tables h => exact h.drainsBy
  | lowCells h => exact h.drainsBy.of_slots fun m => by simp
  | close hopen => exact .drained hopen State.state_drainSlot
  | forceClose hopen =>
    exact (DrainsBy.drained hopen State.state_drainSlot).of_slots fun m => State.slot_raiseRevoked m
  | notices => exact .of_states (by simp) fun m => by simp
  | band => exact .of_states (by simp) fun m => rfl
  | config => exact .of_states (by simp) fun m => rfl
  | blank => exact .of_states (by simp) fun m => rfl

/-! ## Every step -/

theorem DrainingOk.of_same (h : DrainingOk s) (hqueue : t.queue = s.queue) (hslots : t.slots = s.slots) :
    DrainingOk t := fun m => by
  rw [queuedEdits, hqueue, State.slot, hslots]
  exact h m

theorem DrainingOk.setPending (h : DrainingOk s) (l : List Instr) : DrainingOk { s with pending := l } :=
  h.of_same rfl rfl

theorem Accepts.keeps_drainingOk (h : Accepts s p c cmd t) (hs : DrainingOk s) : DrainingOk t := by
  cases h with
  | plain h =>
    refine drainingOk_iff.2 fun m => ?_
    rw [queuedEdits, h.untouched.queue, ← h.drainsBy m, List.count_nil]
    exact hs m
  | @batched u es h =>
    refine drainingOk_iff.2 fun m => ?_
    rw [queuedEdits_appendBatch, queuedEdits, h.untouched.queue, List.count_append]
    exact (congrArg (· + es.count (.mapClose m)) (hs m)).trans (h.drainsBy m)

theorem DrainingOk.deliver (hs : DrainingOk s) : DrainingOk (s.deliver p (answerOf c p cmd s)) := by
  obtain ⟨code, -, hanswer⟩ | ⟨t, fields, hanswer⟩ | ⟨-, b, -, hanswer⟩ := answerOf_cases c p cmd s <;> rw [hanswer]
  · exact hs.of_same (State.deliver_queue ..) (State.deliver_slots ..)
  · exact ((answerOf_accepts hanswer).1.keeps_drainingOk hs).of_same (State.deliver_queue ..) (State.deliver_slots ..)
  · exact hs.of_same (State.deliver_queue ..) (State.deliver_slots ..)

/-- The applied batch takes with it the one MAP_CLOSE of each slot that it closes. -/
theorem DrainingOk.applyBatch (hs : DrainingOk s) (hqueue : s.queue = b :: rest) :
    DrainingOk (s.applyBatch b rest) := by
  intro m
  have hcount := hs m
  rw [queuedEdits, hqueue, List.flatMap_cons, List.count_append] at hcount
  have hrest : queuedEdits (s.applyBatch b rest) = rest.flatMap fun b => b.edits := rfl
  have hslot := State.slot_applyBatch (s := s) (b := b) (rest := rest) m
  rw [hrest]
  by_cases hmem : .mapClose m ∈ b.edits
  · have hpos := List.count_pos_iff.2 hmem
    have hdraining : (s.slot m).state = .draining := by
      by_contra hno
      rw [if_neg hno] at hcount
      omega
    rw [if_pos hdraining] at hcount
    rw [hslot.trans (if_pos ⟨hmem, hdraining⟩), if_neg (by simp)]
    omega
  · rw [List.count_eq_zero.2 hmem, Nat.zero_add] at hcount
    rw [hslot.trans (if_neg fun h => hmem h.1)]
    exact hcount

theorem ExecStep.keeps_drainingOk (hs : DrainingOk s) (h : ExecStep s i t) : DrainingOk t := by
  cases h with
  | partReset k => exact (drainingOk_resetWith k).setPending _
  | frameStart => exact hs.of_same rfl rfl
  | lineStart => exact hs.of_same rfl rfl
  | blankStart => rw [State.beginCommit_frame]; exact hs.of_same rfl rfl
  | pixelEvent => exact hs.of_same rfl rfl
  | commitTimerExpiry => rw [State.beginCommit_timerExpired_frame]; exact hs.of_same rfl rfl
  | batchApplied _ hqueue => rw [State.continueCommit_frame]; exact (hs.applyBatch hqueue).of_same rfl rfl
  | access => exact hs.of_same (by simp) (by simp)
  | command => exact hs.deliver

/-- Settles O8: a slot becomes DRAINING with its MAP_CLOSE staged, and CLOSED as that is applied. -/
theorem stepKeepsDrainingOk : Obligations.StepKeepsDrainingOk := fun _ _ hs h =>
  step_keeps (fun _ l hs => hs.setPending l) (fun _ _ _ => ExecStep.keeps_drainingOk) hs h

end Sys2Proof.Machine
end

section
/-! PROOFS. DATA_WRITE in IDLE, DATA_READ, STROBE_CONFLICT and the inter-byte timer (spec/06, R119, R123, R126,
R131, R134), the status byte and the interrupt output (R136, R138). -/

namespace Sys2Proof.Machine

variable {s : State} {p : Port} {x : PortState} {b : Byte} {c : Command} {n : Option Nat}

/-! ## The commands of Table 6-5 -/

/-- The commands in the order of Table 6-5. -/
def tableCommands : List Command :=
  [.openMap, .closeMap, .setFallback, .mapInfo, .allocShared, .allocPrivate, .allocRange, .store, .loadValues,
    .release, .releaseRange, .freeze, .queryIndex, .findValue, .commitWait, .getNotice, .setNotices, .readState,
    .forceClose, .setQuota, .setBand, .setConfig, .setBlank]

theorem mem_tableCommands (c : Command) : c ∈ tableCommands := by
  cases c <;> decide

theorem lengthTable_eq : lengthTable = tableCommands.map fun c => (codeOf c, commandLength c) := rfl

theorem mem_lengthTable : (b, n) ∈ lengthTable ↔ ∃ c, commandOfByte b = some c ∧ commandLength c = n := by
  simp only [lengthTable_eq, List.mem_map, Prod.mk.injEq, commandOfByte_eq_some]
  exact ⟨fun ⟨c, _, hb, hn⟩ => ⟨c, hb.symm, hn⟩, fun ⟨c, hb, hn⟩ => ⟨c, mem_tableCommands c, hb.symm, hn⟩⟩

/-! ## DATA_WRITE in IDLE -/

theorem PortState.dataWrite_idle (h : x.seq = .idle) : x.dataWrite b = x.beginCommand b := by
  simp only [PortState.dataWrite, h]

/-- Settles O10: the byte names no command, a command of one byte, or a longer one. -/
theorem dataWriteInIdleBeginsCommand : Obligations.DataWriteInIdleBeginsCommand := by
  intro p b s hidle
  have hexec : exec (.dataWrite p b) s = .next (s.setPort p ((s.port p).beginCommand b)) := by
    rw [exec_dataWrite, PortState.dataWrite_idle hidle]
  rw [hexec]
  refine ⟨fun hno => ?bad, fun hone => ?one, fun n hmore hn => ?more⟩
  case bad =>
    have hnone : commandOfByte b = none :=
      Option.eq_none_iff_forall_ne_some.2 fun c hc => hno (commandLength c) (mem_lengthTable.2 ⟨c, hc, rfl⟩)
    rw [PortState.beginCommand_none hnone]
    exact ⟨none, rfl⟩
  case one =>
    obtain ⟨c, hc, hlength⟩ := mem_lengthTable.1 hone
    rw [PortState.beginCommand_one hc hlength]
    rfl
  case more =>
    obtain ⟨c, hc, rfl⟩ := mem_lengthTable.1 hmore
    rw [PortState.beginCommand_more hc hn]

/-! ## DATA_READ and STROBE_CONFLICT -/

theorem exec_dataRead (p : Port) (s : State) :
    exec (.dataRead p) s = .next (s.setPort p (s.port p).dataRead) := rfl

/-- Settles O13: the byte read is the last of the result, or another is left. -/
theorem dataReadInReplyDeliversByte : Obligations.DataReadInReplyDeliversByte := by
  intro p s bytes k x hreply hresult hx
  have hbyte : bytes.getD k 0 = x := by rw [List.getD_eq_getElem?_getD, hx]; rfl
  have hread := PortState.dataRead_reply hreply hresult
  dsimp only at hread
  rw [hbyte] at hread
  rw [exec_dataRead, hread]
  refine ⟨fun hmore => ?more, fun hlast => ?last⟩
  case more => rw [if_pos hmore]
  case last => rw [if_neg (by omega)]

theorem byteOfBits_getLsbD_one :
    ∀ b7 b6 b5 b4 b3 b2 b1 b0, (byteOfBits b7 b6 b5 b4 b3 b2 b1 b0).getLsbD 1 = b1 := by
  decide

/-- OUTBOUND is bit 1 of the status byte, and is set in REPLY alone (Tables 6-3 and 9-3). -/
theorem State.statusByte_outbound (s : State) (p : Port) :
    (s.statusByte p).getLsbD 1 = decide ((s.port p).seq = .reply) :=
  byteOfBits_getLsbD_one ..

/-- Settles O14: neither access reaches more than SEQERR and the record of the byte driven. -/
theorem readOutOfPhaseAndStrobeConflictSetSeqErr : Obligations.ReadOutOfPhaseAndStrobeConflictSetSeqErr := by
  refine ⟨fun p s hseq => ⟨?_, rfl, fun h => ?_⟩, fun p s => rfl⟩
  · rw [exec_dataRead, PortState.dataRead_outOfPhase hseq]
    rfl
  · rw [State.statusByte_outbound, decide_eq_true_eq] at h
    exact hseq h.2

/-! ## The inter-byte timer -/

theorem exec_interByteTimerExpiry (hseq : (s.port p).seq = .collecting) (htimer : (s.port p).interByteTimer = true) :
    exec (.interByteTimerExpiry p) s = .next (s.setPort p ((s.port p).reply [0x03])) :=
  if_pos ⟨hseq, htimer⟩

/-- Settles O15: the port replies with TIMEOUT alone. -/
theorem interByteTimerExpiryAnswersTimeout : Obligations.InterByteTimerExpiryAnswersTimeout :=
  fun _ _ hseq htimer => ⟨none, exec_interByteTimerExpiry hseq htimer⟩

/-! ## The status byte and the interrupt output -/

theorem byteOfBits_toNat (b7 b6 b5 b4 b3 b2 b1 b0 : Bool) :
    (byteOfBits b7 b6 b5 b4 b3 b2 b1 b0).toNat = b7.toNat * 128 + b6.toNat * 64 + b5.toNat * 32 + b4.toNat * 16 +
      b3.toNat * 8 + b2.toNat * 4 + b1.toNat * 2 + b0.toNat := by
  have hbit (b : Bool) : b.toNat ≤ 1 := b.toNat_le
  have h7 := hbit b7
  have h6 := hbit b6
  have h5 := hbit b5
  have h4 := hbit b4
  have h3 := hbit b3
  have h2 := hbit b2
  have h1 := hbit b1
  have h0 := hbit b0
  rw [byteOfBits, BitVec.toNat_ofNat]
  omega

/-- Bits 0 to 3 of the status byte, as Table 9-4 lists them. -/
def SeqState.statusNumber : SeqState → Nat
  | .idle => 0x01
  | .collecting => 0x05
  | .pending => 0x04
  | .waiting => 0x0C
  | .reply => 0x07

/-- Table 9-4 follows from the four bits of Table 6-3. -/
theorem SeqState.statusNumber_eq (q : SeqState) :
    q.statusNumber = q.isWaiting.toNat * 8 + q.busy.toNat * 4 + q.outbound.toNat * 2 + q.ready.toNat := by
  cases q <;> rfl

/-- Settles O17: the four low bits come from the sequencer state, and each other bit from its own flag. -/
theorem statusByteReportsPort : Obligations.StatusByteReportsPort := by
  intro s p
  have hnotice : (!(s.port p).notices.isEmpty).toNat * 16 = if (s.port p).notices = [] then 0 else 0x10 := by
    cases (s.port p).notices <;> rfl
  have herror : (s.port p).seqErr.toNat * 32 = if (s.port p).seqErr then 0x20 else 0 := by
    cases (s.port p).seqErr <;> rfl
  have hcontrol : (s.isControl p).toNat * 64 = if s.controlPort = p then 0x40 else 0 := by
    by_cases h : s.controlPort = p <;> simp [State.isControl, h]
  change _ = (s.port p).seq.statusNumber + _ + _ + _
  rw [State.statusByte, byteOfBits_toNat, SeqState.statusNumber_eq, ← hnotice, ← herror, ← hcontrol, Bool.toNat_false]
  omega

theorem State.resultCondition_iff (s : State) (p : Port) :
    s.resultCondition p = true ↔ (s.port p).resultIrqEn = true ∧ (s.port p).seq = .reply ∧
      ∃ bytes, (s.port p).result = some ⟨bytes, 0⟩ := by
  unfold State.resultCondition
  cases hresult : (s.port p).result with
  | none => simp [hresult]
  | some r =>
    obtain ⟨bytes, position⟩ := r
    simp [hresult, and_assoc]

theorem State.noticeCondition_iff (s : State) (p : Port) :
    s.noticeCondition p = true ↔ (s.port p).noticeIrqEn = true ∧ (s.port p).notices ≠ [] := by
  simp [State.noticeCondition]

/-- Settles O18: the two conditions one by one. -/
theorem interruptLineFollowsConditions : Obligations.InterruptLineFollowsConditions := fun s p => by
  rw [State.irq, Bool.or_eq_true, State.resultCondition_iff, State.noticeCondition_iff]

end Sys2Proof.Machine
end

section
/-! PROOFS. FRAME_START and PIXEL_EVENT (spec/05, R103, R111, R112), the grant (spec/07, R146), and the events that do
not arise (log 2). -/

namespace Sys2Proof.Machine

variable {s t : State} {p : Port} {d : Display} {sc : Scan} {x base : Byte} {v : Bool} {n : SlotNo} {c : Command}
  {cmd : List Byte} {sel : LineSelection}

/-! ## FRAME_START -/

theorem CommitUnit.frameStart_eq (c : CommitUnit) :
    c.frameStart = { c with cutPending := if c.state = .applying then true else c.cutPending } := by
  unfold CommitUnit.frameStart
  split
  case h_1 hidle => rw [if_neg (by rw [hidle]; nofun)]
  case h_2 happlying => rw [if_pos happlying]

/-- Settles O20: the commit unit takes the cut of R87. -/
theorem frameStartOpensFrame : Obligations.FrameStartOpensFrame := fun s => by
  rw [← CommitUnit.frameStart_eq]
  rfl

/-! ## PIXEL_EVENT -/

theorem exec_pixelEvent (x : Byte) (v : Bool) (s : State) :
    exec (.pixelEvent x v) s = .next { s with
      scan := { s.scan with output := s.scan.output.push (pixelColour s.display s.scan x v) } } := rfl

theorem pixelColour_blanked (h : sc.blanked = true) : pixelColour d sc x v = d.blank := if_pos h

theorem pixelColour_clear (h : v = false) : pixelColour d sc x v = d.blank := by
  subst h
  unfold pixelColour
  split
  case isTrue => rfl
  case isFalse => split <;> rfl

theorem pixelColour_selected (hshown : sc.blanked = false) (hsel : sc.selection = some sel) (hv : v = true) :
    pixelColour d sc x v = slotColour d sel x := by
  simp [pixelColour, hshown, hsel, hv]

theorem effectiveIndex_eq (x base : Byte) : effectiveIndex x base = (x.toNat + base.toNat) % 256 :=
  BitVec.toNat_add x base

section
variable (hshown : d.slots[sel.slot].shown = true)
include hshown

theorem slotColour_outside (hi : d.slots[sel.slot].size.entries ≤ effectiveIndex x sel.base) :
    slotColour d sel x = d.slots[sel.slot].fallback := by
  rw [slotColour, if_pos hshown, if_neg (Nat.not_lt.2 hi)]

variable (hi : effectiveIndex x sel.base < d.slots[sel.slot].size.entries)
include hi

theorem slotColour_unbound (h : d.slots[sel.slot].entries.getD (effectiveIndex x sel.base) none = none) :
    slotColour d sel x = d.slots[sel.slot].fallback := by
  simp only [slotColour, if_pos hshown, if_pos hi, h]

theorem slotColour_bound {c : CellNo}
    (h : d.slots[sel.slot].entries.getD (effectiveIndex x sel.base) none = some c) :
    slotColour d sel x = d.cells[c] := by
  simp only [slotColour, if_pos hshown, if_pos hi, h]

end

/-- Settles O24: the rows of Table 5-4 one by one. -/
theorem pixelEventProducesColour : Obligations.PixelEventProducesColour := by
  intro s x v
  refine ⟨_, exec_pixelEvent x v s, rfl, rfl, rfl, pixelColour_blanked, fun _ => pixelColour_of_no_selection _ x v,
    fun _ => pixelColour_clear, fun n base hshown hsel hv => ?_⟩
  have hcolour := pixelColour_selected (d := s.display) (x := x) hshown hsel hv
  change (_ → pixelColour s.display s.scan x v = _) ∧ (_ → (_ → pixelColour s.display s.scan x v = _) ∧
    (_ → (_ → pixelColour s.display s.scan x v = _) ∧ ∀ c, _ → pixelColour s.display s.scan x v = _))
  rw [hcolour, ← effectiveIndex_eq]
  refine ⟨fun hhidden => ?hidden, fun hslot => ⟨fun hi => ?outside, fun hi => ⟨fun h => ?unbound, fun c h => ?bound⟩⟩⟩
  case hidden => exact if_neg (by rw [hhidden]; nofun)
  case outside => exact slotColour_outside (sel := ⟨n, base⟩) hslot hi
  case unbound => exact slotColour_unbound (sel := ⟨n, base⟩) hslot hi h
  case bound => exact slotColour_bound (sel := ⟨n, base⟩) hslot hi h

/-! ## The grant -/

theorem State.grantedPort_eq_none : s.grantedPort = none ↔ ∀ q, (s.port q).request = false := by
  constructor
  · intro h q
    unfold State.grantedPort at h
    split at h
    case h_1 ha hb => cases q; exacts [ha, hb]
    all_goals cases h
  · intro h
    have ha : s.portA.request = false := h .a
    have hb : s.portB.request = false := h .b
    rw [State.grantedPort, ha, hb]

/-- Settles O54: the turn of R146. -/
theorem grantIsRoundRobin : Obligations.GrantIsRoundRobin := fun s p => by
  refine ⟨(s.grantedPort_eq p).trans (and_congr_right fun _ => ?_), State.grantedPort_eq_none⟩
  cases (s.port p.other).request <;> simp

/-! ## Events that do not arise -/

theorem exec_notGranted (h : s.grantedPort ≠ some p) : exec (commandRow c p) s = .fault .notGranted :=
  (exec_commandRow c p s).trans (if_neg h)

theorem exec_otherCommand (hgranted : s.grantedPort = some p)
    (hc : commandOfByte (byteAt (s.port p).collected 1) ≠ some c) :
    exec (commandRow c p) s = .fault .otherCommandCollected :=
  (exec_commandRow c p s).trans ((if_pos hgranted).trans (if_neg hc))

/-- Settles O60: the guard of each event in turn. -/
theorem eventsThatDoNotAriseStop : Obligations.EventsThatDoNotAriseStop := by
  refine ⟨fun c p s hrequest => exec_notGranted fun hgranted => ?grant,
    fun c p s cmd hgrant hcode => exec_otherCommand hgrant.grantedPort ?command,
    fun p s hstopped => if_neg ?timer, fun s hstopped => ?commitTimer, fun s hnone => ?batch⟩
  case grant =>
    obtain ⟨hraised, hturn⟩ := (s.grantedPort_eq p).1 hgranted
    obtain hlow | ⟨hother, hlast⟩ := hrequest
    · rw [hlow] at hraised; cases hraised
    · obtain hlow | hturn := hturn
      · rw [hlow] at hother; cases hother
      · exact Port.other_ne p (hturn.symm.trans hlast)
  case command =>
    rw [hgrant.collected]
    exact fun hc => hcode (commandOfByte_eq_some.1 hc)
  case timer =>
    rintro ⟨hcollecting, hrunning⟩
    obtain hseq | hstopped := hstopped
    · exact hseq hcollecting
    · rw [hstopped] at hrunning; cases hrunning
  case commitTimer =>
    change execCommitTimerExpiry s = _
    rw [execCommitTimerExpiry, hstopped]
  case batch =>
    change execBatchApplied s = _
    unfold execBatchApplied
    split
    case h_1 happlying hqueue =>
      obtain hidle | hempty := hnone
      · rw [hidle] at happlying; cases happlying
      · rw [hempty] at hqueue; cases hqueue
    case h_2 => rfl

end Sys2Proof.Machine
end

section
/-! PROOFS. SET_FALLBACK, MAP_INFO and SET_QUOTA (spec/02, R37 to R39), STORE (spec/03, R55), QUERY_INDEX (spec/03,
R68 to R70), SET_CONFIG and SET_BLANK (spec/05, R117; spec/07, R156). -/

namespace Sys2Proof.Machine

variable {s : State} {p : Port} {n : SlotNo} {i : Nat} {c : CellNo} {v : Colour} {d : Display}

/-! ## A command that sets one slot -/

theorem TablesOnly.setSlot {y : Slot} : TablesOnly s (s.setSlot n y) := rfl

theorem SameCells.of_setSlot {t : State} {y : Slot} (h : SameCells (s.setSlot n y) t) : SameCells s t :=
  ⟨h.cells, h.freeList, h.sharedIndex⟩

/-! ## SET_FALLBACK -/

theorem answerSetFallback_staged (howns : ownsOpen s p n) :
    answerSetFallback p ([0x03, slotByte n] ++ colourOf v) s =
      staged (s.setSlot n { s.slot n with fallback := v }) p [.mapFallback n v] [] :=
  (withSlot_slotByte n _).trans (ifOwned_of_ownsOpen howns)

/-- Settles O35: one slot is set, and the one edit staged. -/
theorem setFallbackSetsWorkingFallback : Obligations.SetFallbackSetsWorkingFallback := by
  intro p s n v hgrant howns hroom
  obtain ⟨t, hexec, hdelivers, hnotices, happended⟩ := hgrant.delivers_staged (c := .setFallback) rfl .setSlot
    (answerSetFallback_staged howns) hroom
  exact ⟨t, (exec_commandRow .setFallback p s).trans hexec, hdelivers.answered, hdelivers.frame,
    hdelivers.slotBecomes fun m => s.slot_setSlot n m _, hdelivers.tables.of_setSlot, hdelivers.config, hnotices,
    happended⟩

/-! ## MAP_INFO -/

theorem answerMapInfo_accepted (n : SlotNo) :
    answerMapInfo p [0x04, slotByte n] s = .accepted s (mapInfoFields (s.slot n)) :=
  withSlot_slotByte n _

/-- Settles O36: the three bytes are those that the model gives the state, the owner and the size. -/
theorem mapInfoReportsWorkingPart : Obligations.MapInfoReportsWorkingPart := by
  intro p s n hgrant
  obtain ⟨t, hexec, hdelivers, hnotices, hqueue⟩ := hgrant.delivers_accepted (c := .mapInfo) rfl (.refl s)
    (answerMapInfo_accepted n)
  refine ⟨t, (exec_commandRow .mapInfo p s).trans hexec, hdelivers.frame, hdelivers.tables, hdelivers.slots,
    hdelivers.config, hqueue, hnotices, slotStateByte (s.slot n).state, ownerByte (s.slot n).owner,
    sizeCodeByte (s.slot n).size, hdelivers.answered, ?_, ?_, ?_, ?_, ?_, ?_, ?_, ?_, ?_⟩ <;>
  · intro h
    rw [h]
    rfl

/-! ## SET_QUOTA -/

theorem exec_setQuota (p : Port) (s : State) : exec (.setQuota p) s = grant .setQuota answerSetQuota p s := rfl

section
variable {hi lo : Byte}

theorem answerSetQuota_checked (hmax : hi.toNat * 256 + lo.toNat ≤ 512) (hcontrol : s.controlPort = p) :
    answerSetQuota p [0x31, slotByte n, hi, lo] s =
      check ((s.slot n).privCount ≤ hi.toNat * 256 + lo.toNat) .quota
        (.accepted (s.setSlot n { s.slot n with quota := hi.toNat * 256 + lo.toNat }) []) :=
  (withSlot_slotByte n _).trans <| (check_pos hmax).trans <| check_pos hcontrol.symm

theorem answerSetQuota_badArgument (hmax : 512 < hi.toNat * 256 + lo.toNat) :
    answerSetQuota p [0x31, slotByte n, hi, lo] s = .refusal .badArgument :=
  (withSlot_slotByte n _).trans <| check_neg (Nat.not_le.2 hmax)

end

/-- Settles O37: the checks of SET_QUOTA in their order. -/
theorem setQuotaSetsQuota : Obligations.SetQuotaSetsQuota := by
  rintro p s n hi lo quota hgrant rfl hcontrol
  rw [exec_setQuota]
  refine ⟨fun hcount hmax => ?set, fun hcount hmax => ?below, fun hmax => ?above⟩
  case set =>
    obtain ⟨t, hexec, hdelivers, hnotices, hqueue⟩ := hgrant.delivers_accepted (c := .setQuota) rfl .setSlot
      ((answerSetQuota_checked hmax hcontrol).trans (check_pos hcount))
    exact ⟨t, hexec, hdelivers.answered, hdelivers.frame, hdelivers.slotBecomes fun m => s.slot_setSlot n m _,
      hdelivers.tables.of_setSlot, hdelivers.config, hqueue, hnotices⟩
  case below =>
    exact hgrant.refused rfl ((answerSetQuota_checked hmax hcontrol).trans (check_neg (Nat.not_le.2 hcount)))
  case above => exact hgrant.refused rfl (answerSetQuota_badArgument hmax)

/-! ## STORE -/

theorem answerStore_staged {i : Byte} (howns : ownsOpen s p n) (hi : i.toNat < (s.slot n).size.entries)
    (hcell : s.ownedCell n i.toNat = .ok c) :
    answerStore p ([0x13, slotByte n, i] ++ colourOf v) s =
      staged (s.setPrivValue c v) p [.cellValue c v] [] := by
  refine (withSlot_slotByte n _).trans <| (ifOwned_of_ownsOpen howns).trans <| (ifIndex_of_lt hi).trans ?_
  rw [show indexArg ([0x13, slotByte n, i] ++ colourOf v) = i.toNat from rfl, hcell]
  rfl

/-- Settles O42: the value is given to the one cell, which stays PRIVATE. -/
theorem storeSetsPrivateValue : Obligations.StoreSetsPrivateValue := by
  intro p s n i v c old hgrant howns hi hentry hcell hroom
  obtain ⟨t, hexec, hdelivers, hnotices, happended⟩ := hgrant.delivers_staged (c := .store) rfl .setPrivValue
    (answerStore_staged howns hi (State.ownedCell_of_priv hentry hcell)) hroom
  refine ⟨t, (exec_commandRow .store p s).trans hexec, hdelivers.answered, hdelivers.frame, ?_, fun d hd => ?_,
    hdelivers.tables.freeList.trans (State.setPrivValue_freeList ..),
    hdelivers.tables.sharedIndex.trans (State.setPrivValue_sharedIndex ..),
    hdelivers.slots.trans (State.setPrivValue_slots ..), hdelivers.config, hnotices, happended⟩
  · rw [hdelivers.cell, State.cell_setPrivValue_of_priv hcell]
  · rw [hdelivers.cell, State.cell_setPrivValue_of_ne hd]

/-! ## QUERY_INDEX -/

theorem answerQueryIndex_accepted {i : Byte} (hopen : (s.slot n).state ≠ .closed)
    (hi : i.toNat < (s.slot n).size.entries) :
    answerQueryIndex p [0x18, slotByte n, i] s =
      .accepted s (workingReport s n i.toNat ++ displayReport s.display n i.toNat) :=
  (withSlot_slotByte n _).trans <| (check_pos hopen).trans (ifIndex_of_lt hi)

theorem workingReport_unbound (h : s.entry n i = none) : workingReport s n i = [0, 0, 0, 0, 0, 0] := by
  rw [workingReport, h]

theorem workingReport_shared {k : Nat} (h : s.entry n i = some c) (hc : s.cell c = .shared v k) :
    workingReport s n i = 1 :: twoBytes c ++ colourOf v := by
  rw [workingReport, h]
  dsimp only
  rw [hc]
  rfl

theorem workingReport_priv {m : SlotNo} {j : Nat} (h : s.entry n i = some c) (hc : s.cell c = .priv v m j) :
    workingReport s n i = 2 :: twoBytes c ++ colourOf v := by
  rw [workingReport, h]
  dsimp only
  rw [hc]
  rfl

theorem displayReport_unbound (h : d.slots[n].shown = false ∨ d.slots[n].size.entries ≤ i ∨
    d.slots[n].entries.getD i none = none) : displayReport d n i = [0, 0, 0, 0, 0, 0] := by
  have hnone : d.boundCell n i = none := by
    unfold Display.boundCell
    split
    case isTrue hinside =>
      obtain hhidden | houtside | hunbound := h
      · rw [hinside.1] at hhidden; cases hhidden
      · exact absurd hinside.2 (Nat.not_lt.2 houtside)
      · exact hunbound
    case isFalse => rfl
  rw [displayReport, hnone]

theorem displayReport_bound (hshown : d.slots[n].shown = true) (hi : i < d.slots[n].size.entries)
    (hc : d.slots[n].entries.getD i none = some c) :
    displayReport d n i = 1 :: twoBytes c ++ colourOf d.cells[c] := by
  have hbound : d.boundCell n i = some c := (if_pos ⟨hshown, hi⟩).trans hc
  rw [displayReport, hbound]
  rfl

/-- Settles O48: the two reports side by side. -/
theorem queryIndexReportsBothBindings : Obligations.QueryIndexReportsBothBindings := by
  intro p s n i hgrant hopen hi
  obtain ⟨t, hexec, hdelivers, hnotices, hqueue⟩ := hgrant.delivers_accepted (c := .queryIndex) rfl (.refl s)
    (answerQueryIndex_accepted hopen hi)
  exact ⟨t, _, _, (exec_commandRow .queryIndex p s).trans hexec, hdelivers.answered, hdelivers.frame,
    hdelivers.tables, hdelivers.slots, hdelivers.config, hqueue, hnotices, workingReport_unbound,
    fun _ _ _ => workingReport_shared, fun _ _ _ _ => workingReport_priv, displayReport_unbound,
    fun _ => displayReport_bound⟩

/-! ## SET_CONFIG -/

theorem answerSetConfig_accepted {interval hi lo : Byte} (hcontrol : s.controlPort = p)
    (hmax : hi.toNat * 256 + lo.toNat ≤ 512) :
    answerSetConfig p [0x33, interval, hi, lo] s =
      .accepted (s.configure interval.toNat (hi.toNat * 256 + lo.toNat)) [] :=
  (check_pos hmax).trans (check_pos hcontrol.symm)

/-- An interval of 0 stops the timer (R90). -/
theorem CommitTimer.restarted_toNat (interval : Byte) :
    CommitTimer.restarted interval.toNat = if interval = 0 then .stopped else .running interval.toNat := by
  have hzero : interval.toNat = 0 ↔ interval = 0 := by bv_omega
  simp only [CommitTimer.restarted, hzero]

/-- Settles O52: the configuration and the timer are set, and nothing is staged. -/
theorem setConfigSetsIntervalAndWatermark : Obligations.SetConfigSetsIntervalAndWatermark := by
  intro p s interval hi lo hgrant hcontrol hmax
  have hexec := hgrant.accepted (c := .setConfig) rfl
    (answerSetConfig_accepted (interval := interval) hcontrol hmax)
  exact ⟨_, (exec_commandRow .setConfig p s).trans hexec,
    .of_deliver_accepted (by simp) _,
    .of_deliver_accepted _ rfl rfl rfl rfl (by simp),
    .of_deliver_accepted _ rfl rfl rfl,
    s.deliver_slots p _,
    ⟨s.deliver_queue p _, s.deliver_nextBatch p _⟩,
    .of_deliver_accepted _ (by simp),
    s.deliver_config p _,
    (s.deliver_commit p _).trans (by rw [← CommitTimer.restarted_toNat]; rfl)⟩

/-! ## SET_BLANK -/

/-- The working blank colour set. -/
def State.setBlank (s : State) (v : Colour) : State := { s with config := { s.config with blank := v } }

theorem answerSetBlank_staged (hcontrol : s.controlPort = p) :
    answerSetBlank p (0x34 :: colourOf v) s = staged (s.setBlank v) p [.blank v] [] :=
  check_pos hcontrol.symm

/-- Settles O53: the working blank colour is set, and the one edit staged. -/
theorem setBlankSetsWorkingBlank : Obligations.SetBlankSetsWorkingBlank := by
  intro p s v hgrant hcontrol hroom
  have hport (q : Port) : (s.setBlank v).port q = s.port q := by cases q <;> rfl
  have hexec := hgrant.accepted (c := .setBlank) rfl
    ((answerSetBlank_staged (v := v) hcontrol).trans (staged_of_hasRoom rfl hroom))
  exact ⟨_, (exec_commandRow .setBlank p s).trans hexec,
    .of_deliver_accepted (by simp [hport]) _,
    .of_deliver_accepted _ rfl rfl rfl rfl (by simp [hport]),
    .of_deliver_accepted _ rfl rfl rfl,
    s.deliver_slots p _,
    s.deliver_config p _,
    s.deliver_commit p _,
    .of_deliver_accepted _ (by simp [hport]),
    .of_deliver_accepted _ [.blank v] rfl rfl⟩

end Sys2Proof.Machine
end

section
/-! PROOFS. CLOSE_MAP and FORCE_CLOSE (spec/02, R31 to R34). -/

namespace Sys2Proof.Machine

variable {s t u : State} {n : SlotNo} {p : Port} {is : List Nat} {q : SlotState}

/-! ## The walk over all entries -/

/-- An unbound entry is not released, so the walk may leave it out. -/
theorem State.releaseEntries_boundAmong (hnodup : is.Nodup) (h : ∀ i ∈ is, t.entry n i = s.entry n i) :
    t.releaseEntries n (s.boundAmong n is) = t.releaseEntries n is := by
  induction is generalizing t with
  | nil => rfl
  | cons i is ih =>
    obtain ⟨hi, hnodup⟩ := List.nodup_cons.1 hnodup
    have hhead := h i List.mem_cons_self
    have htail : ∀ j ∈ is, (t.releaseEntry n i).entry n j = s.entry n j := fun j hj => by
      rw [State.entry_releaseEntry, if_neg (ne_of_mem_of_not_mem hj hi)]
      exact h j (List.mem_cons_of_mem i hj)
    cases hbound : s.entry n i with
    | none =>
      rw [State.boundAmong, List.filter_cons_of_neg (by simp [hbound]), State.releaseEntries_cons, ← ih hnodup htail,
        State.releaseEntry_unbound (hhead.trans hbound)]
      rfl
    | some c =>
      rw [State.boundAmong, List.filter_cons_of_pos (by simp [hbound]), State.releaseEntries_cons,
        State.releaseEntries_cons, ← ih hnodup htail]
      rfl

theorem State.releaseEntries_walk : s.releaseEntries n (s.walkIndices n) = s.releaseEntries n (s.allIndices n) :=
  State.releaseEntries_boundAmong List.nodup_range fun _ _ => rfl

/-- The working state of the slot is no part of what is released. -/
theorem EntriesReleased.setState (h : EntriesReleased s u n is) :
    EntriesReleased s (u.setSlot n { u.slot n with state := q }) n is where
  cells := h.cells
  freeList := h.freeList
  sharedIndex := h.sharedIndex
  entries i := by rw [State.entry, State.slot_setSlot, if_pos rfl]; exact h.entries i
  length := by rw [State.slot_setSlot, if_pos rfl]; exact h.length
  privCount := by rw [State.slot_setSlot, if_pos rfl]; exact h.privCount
  sharedCount := by rw [State.slot_setSlot, if_pos rfl]; exact h.sharedCount
  others m hm := by rw [State.slot_setSlot, if_neg hm]; exact h.others m hm

theorem TablesOk.entriesReleased_drainSlot (hs : TablesOk s) :
    EntriesReleased s (s.drainSlot n) n (List.range (s.slot n).size.entries) := by
  rw [State.drainSlot, State.releaseEntries_walk]
  exact (entriesReleased_releaseEntries hs List.pairwise_lt_range).setState

/-- The slot drains with owner, size, quota and fallback kept, and nothing bound (R32). -/
theorem TablesOk.slot_drainSlot (hs : TablesOk s) (hopen : (s.slot n).state = .opened) :
    (s.drainSlot n).slot n = { s.slot n with
      state := .draining, privCount := 0, sharedCount := 0,
      entries := List.replicate (s.slot n).size.entries none } := by
  have hslot : (s.drainSlot n).slot n = { s.slot n with
      state := .draining, entries := ((s.drainSlot n).slot n).entries,
      privCount := ((s.drainSlot n).slot n).privCount, sharedCount := ((s.drainSlot n).slot n).sharedCount } := by
    rw [State.drainSlot, State.slot_setSlot, if_pos rfl, SlotKept.releaseEntries.slot]
  have hsize : ((s.drainSlot n).slot n).size = (s.slot n).size := by rw [hslot]
  have hok := ((hs.drainSlot_steps hopen).keeps_tablesOk hs).slots n
  have hentries := hok.entries_of_draining (by rw [hslot])
  have hunbound : ∀ e ∈ ((s.drainSlot n).slot n).entries, e = none := by
    rw [hentries]
    exact fun _ => List.eq_of_mem_replicate
  have hpriv := hok.privCount.trans (countP_of_unbound hunbound _)
  have hshared := hok.sharedCount.trans (countP_of_unbound hunbound _)
  rw [hpriv, hshared, hentries, hsize] at hslot
  exact hslot

/-- The walk releases as many entries as are bound. -/
theorem TablesOk.length_walkIndices (hs : TablesOk s) (hopen : (s.slot n).state = .opened) :
    (s.walkIndices n).length = (s.slot n).entries.countP fun e => e.isSome := by
  rw [s.entries_eq_map n, (hs.slots n).length_entries hopen, List.countP_map, List.countP_eq_length_filter]
  rfl

/-! ## CLOSE_MAP -/

theorem TablesOnly.drainSlot : TablesOnly s (s.drainSlot n) := TablesOnly.releaseEntries.trans rfl

theorem answerCloseMap_staged (howns : ownsOpen s p n) :
    answerCloseMap p [0x02, slotByte n] s =
      staged (s.drainSlot n) p [.mapClose n] (twoBytes (s.walkIndices n).length) :=
  (withSlot_slotByte n _).trans (ifOwned_of_ownsOpen howns)

/-- Settles O33: the walk over the bound entries is the walk over all, and the slot drains. -/
theorem closeMapReleasesEveryEntry : Obligations.CloseMapReleasesEveryEntry := by
  intro p s n hs hgrant howns hroom
  obtain ⟨t, hexec, hdelivers, hnotices, happended⟩ := hgrant.delivers_staged (c := .closeMap) rfl .drainSlot
    (answerCloseMap_staged howns) hroom
  exact ⟨t, (exec_commandRow .closeMap p s).trans hexec, hs.length_walkIndices howns.1 ▸ hdelivers.answered,
    hdelivers.frame, hs.entriesReleased_drainSlot.of_tables hdelivers.tables hdelivers.slots,
    (hdelivers.slot n).trans (hs.slot_drainSlot howns.1), hdelivers.config, hnotices, happended⟩

/-! ## FORCE_CLOSE -/

theorem answerForceClose_staged {o : Port} (hcontrol : s.controlPort = p) (hopen : (s.slot n).state = .opened)
    (howner : (s.slot n).owner = some o) :
    answerForceClose p [0x30, slotByte n] s =
      staged ((s.drainSlot n).raise o (.mapRevoked (slotBit n))) p [.mapClose n]
        (twoBytes (s.walkIndices n).length) := by
  refine (withSlot_slotByte n _).trans <| (check_pos hcontrol.symm).trans <| (check_pos hopen).trans ?_
  rw [howner]
  rfl

/-- Settles O34: the walk is that of CLOSE_MAP, and the notice is raised at the owner. -/
theorem forceCloseRevokesMap : Obligations.ForceCloseRevokesMap := by
  intro p s n o hs hgrant hcontrol hopen howner hroom
  have hport (q : Port) : ((s.drainSlot n).raise o (.mapRevoked (slotBit n))).port q = { s.port q with
      notices := if q = o then takeRaise (s.port q).mask (s.port q).notices (.mapRevoked (slotBit n))
        else (s.port q).notices } := by
    rw [State.port_raise, State.drainSlot_port, State.drainSlot_port]
    split
    case isTrue hq => rw [hq]
    case isFalse => rfl
  have hexec := hgrant.accepted (c := .forceClose) rfl
    ((answerForceClose_staged hcontrol hopen howner).trans (staged_of_hasRoom (by simp) hroom))
  refine ⟨_, (exec_commandRow .forceClose p s).trans hexec,
    hs.length_walkIndices hopen ▸ .of_deliver_accepted (by simp [hport]) _,
    .of_deliver_accepted _ (by simp) (by simp) (by simp) (by simp) (by simp [hport]),
    hs.entriesReleased_drainSlot.of_tables (.of_deliver_accepted _ (by simp) (by simp) (by simp))
      ((s.deliver_slots p _).trans (by simp [Answer.tables])),
    ?slot, .of_deliver_accepted _ (by simp) (by simp), ⟨fun q => ?notices, fun q => ?mask⟩,
    .of_deliver_accepted _ [.mapClose n] (by simp) (by simp)⟩
  case slot =>
    rw [State.slot_deliver_accepted]
    simpa using hs.slot_drainSlot hopen
  case notices =>
    rw [State.notices_deliver_accepted, State.appendBatch_port, hport]
    simp only [decide_eq_true_eq]
    rfl
  case mask => rw [State.mask_deliver_accepted, State.appendBatch_port, hport]

end Sys2Proof.Machine
end

section
/-! PROOFS. The checks in the order of Table 7-3 and their refusals (spec/07, R149, R151): the maps and the entries
(R31, R37, R39, R44 to R46, R68), the privilege (R148), and the room in the queue (R79). -/

namespace Sys2Proof.Machine

variable {s u : State} {p : Port} {n : SlotNo} {c : Command} {cmd fields : List Byte} {k : Answer} {b : Byte}
  {es : List Edit} {code : ResultCode}

/-! ## A refusal is delivered -/

theorem Granted.refuses (hg : Granted s p cmd) (hb : byteAt cmd 1 = codeOf c)
    (ha : answerOf c p cmd s = .refusal code) : Refuses (commandRow c p) s p (resultByte code) :=
  ⟨_, (hg.exec hb).trans (by rw [ha]), s.deliver_refusal p code⟩

/-! ## The checks that refuse -/

theorem withSlot_badArgument {f : SlotNo → Answer} (h : 8 ≤ b.toNat) : withSlot b f = .refusal .badArgument := by
  rw [withSlot, slotOfByte_eq_none.2 h]

theorem withSlot_of_lt {f : SlotNo → Answer} (h : b.toNat < 8) : ∃ n, withSlot b f = f n :=
  ⟨⟨b.toNat, h⟩, by rw [withSlot, slotOfByte, dif_pos h]⟩

theorem withSlot_of_eq {f : SlotNo → Answer} (h : b = slotByte n) : withSlot b f = f n := h ▸ withSlot_slotByte n f

theorem ifOwned_badMap (h : (s.slot n).state ≠ .opened) : ifOwned s p n k = .refusal .badMap := check_neg h

theorem ifOwned_notOwner (hopen : (s.slot n).state = .opened) (howner : (s.slot n).owner ≠ some p) :
    ifOwned s p n k = .refusal .notOwner :=
  (check_pos hopen).trans (check_neg howner)

theorem ifRange_badIndex {first count : Nat} (h : (s.slot n).size.entries < first + count) :
    ifRange s n first count k = .refusal .badIndex :=
  check_neg (Nat.not_le.2 h)

theorem ifIndex_badIndex {i : Nat} (h : (s.slot n).size.entries ≤ i) : ifIndex s n i k = .refusal .badIndex :=
  check_neg (Nat.not_lt.2 h)

/-- The room is judged with the queue as it was before the working changes (R79). -/
theorem staged_stageFull (hqueue : u.queue = s.queue) (hfull : ¬ hasRoom s es.length) :
    staged u p es fields = .refusal .stageFull :=
  staged_refused fun hroom => hfull ((State.roomFor_iff_of_queue hqueue).1 hroom)

/-! ## The binding commands -/

/-- The count that the engine judges: that of ALLOC_RANGE and RELEASE_RANGE (R45); the port has judged that of
LOAD_VALUES (R125). -/
abbrev countJudged (c : Command) (cmd : List Byte) : Prop :=
  (c = .allocRange ∨ c = .releaseRange) → rangeCountOk (countArg cmd)

/-- The number of entries that a binding command names. -/
def entryCount (c : Command) (cmd : List Byte) : Nat := if isRange c = true then countArg cmd else 1

/-- A binding command once its slot and its index or range are judged; for another command this says nothing of
its own. -/
def bindingAt : Command → Port → List Byte → SlotNo → State → Answer
  | .allocShared, p, cmd, n, s =>
    check (s.entry n (indexArg cmd) = none) .bound <| allocSharedAt p n (indexArg cmd) (colourAt cmd 4) s
  | .allocPrivate, p, cmd, n, s =>
    check (s.entry n (indexArg cmd) = none) .bound <|
    check ((s.slot n).privCount + 1 ≤ (s.slot n).quota) .quota <|
    allocPrivateAt p n (indexArg cmd) (colourAt cmd 4) s
  | .allocRange, p, cmd, n, s =>
    check (s.boundAmong n (State.indexRange (indexArg cmd) (countArg cmd)) = []) .bound <|
    check ((s.slot n).privCount + countArg cmd ≤ (s.slot n).quota) .quota <|
    check (countArg cmd ≤ s.freeCount) .noCells <|
    staged
      ((bindRange s n (colourAt cmd 5) (rangeCells s (indexArg cmd) (countArg cmd))).raiseIfLow s.freeCount) p
      (rangeEdits n (colourAt cmd 5) (rangeCells s (indexArg cmd) (countArg cmd))) []
  | .store, p, cmd, n, s =>
    match s.ownedCell n (indexArg cmd) with
    | .error code => .refusal code
    | .ok c => staged (s.setPrivValue c (colourAt cmd 4)) p [.cellValue c (colourAt cmd 4)] []
  | .loadValues, p, cmd, n, s =>
    match s.ownedCells n (State.indexRange (indexArg cmd) (countArg cmd)) with
    | .error code => .refusal code
    | .ok cs =>
      staged (loadAll s (cs.zip (loadColours cmd (countArg cmd)))) p
        (loadEdits (cs.zip (loadColours cmd (countArg cmd)))) []
  | .release, p, cmd, n, s =>
    match s.entry n (indexArg cmd) with
    | none => .refusal .unbound
    | some c => staged (s.releaseEntry n (indexArg cmd)) p [.entry n (indexArg cmd) none] (flagByte (frees s c))
  | .releaseRange, p, cmd, n, s =>
    releaseBound p n (s.boundAmong n (State.indexRange (indexArg cmd) (countArg cmd))) s
  | .freeze, p, cmd, n, s =>
    match s.ownedCell n (indexArg cmd) with
    | .error code => .refusal code
    | .ok c =>
      match s.lookup (s.workingValue c) with
      | some t =>
        check (s.holders t < Config.maxHolders) .shareLimit <|
        staged (mergeInto s n (indexArg cmd) c t (s.workingValue c)) p [.entry n (indexArg cmd) (some t)]
          (twoBytes t ++ flagByte true)
      | none => .accepted (freezeInPlace s n c (s.workingValue c)) (twoBytes c ++ flagByte false)
  | c, p, cmd, _, s => answerOf c p cmd s

/-- The checks that the binding commands share come first, and in one order (R44 to R46, R149). -/
theorem answerOf_binding (hc : isBinding c = true) :
    answerOf c p cmd s = withSlot (byteAt cmd 2) fun n =>
      check (countJudged c cmd) .badArgument <|
      ifOwned s p n <|
      ifRange s n (indexArg cmd) (entryCount c cmd) <|
      bindingAt c p cmd n s := by
  have hunjudged {k : SlotNo → Answer} (h : countJudged c cmd) :
      (withSlot (byteAt cmd 2) fun n => check (countJudged c cmd) .badArgument (k n)) = withSlot (byteAt cmd 2) k :=
    congrArg _ (funext fun n => check_pos h)
  have hjudged {k : SlotNo → Answer} (h : c = .allocRange ∨ c = .releaseRange) :
      (withSlot (byteAt cmd 2) fun n => check (countJudged c cmd) .badArgument (k n)) =
        withSlot (byteAt cmd 2) fun n => check (rangeCountOk (countArg cmd)) .badArgument (k n) := by
    simp only [check, countJudged, h, true_imp_iff]
  cases c with
  | allocRange => exact (hjudged (.inl rfl)).symm
  | releaseRange => exact (hjudged (.inr rfl)).symm
  | allocShared => exact (hunjudged (by simp [countJudged])).symm
  | allocPrivate => exact (hunjudged (by simp [countJudged])).symm
  | store => exact (hunjudged (by simp [countJudged])).symm
  | loadValues => exact (hunjudged (by simp [countJudged])).symm
  | release => exact (hunjudged (by simp [countJudged])).symm
  | freeze => exact (hunjudged (by simp [countJudged])).symm
  | _ => cases hc

section
variable (hc : isBinding c = true) (hslot : byteAt cmd 2 = slotByte n) (hcount : countJudged c cmd)
include hc hslot hcount

theorem answerOf_binding_slot :
    answerOf c p cmd s =
      ifOwned s p n (ifRange s n (indexArg cmd) (entryCount c cmd) (bindingAt c p cmd n s)) :=
  (answerOf_binding hc).trans <| (withSlot_of_eq hslot).trans (check_pos hcount)

theorem answerOf_binding_checked (howns : ownsOpen s p n)
    (hrange : indexArg cmd + entryCount c cmd ≤ (s.slot n).size.entries) :
    answerOf c p cmd s = bindingAt c p cmd n s :=
  (answerOf_binding_slot hc hslot hcount).trans <| (ifOwned_of_ownsOpen howns).trans (ifRange_of_le hrange)

end

theorem answerOf_binding_badArgument (hc : isBinding c = true)
    (h : 8 ≤ (byteAt cmd 2).toNat ∨ (c = .allocRange ∨ c = .releaseRange) ∧
      ((byteAt cmd 4).toNat = 0 ∨ 17 ≤ (byteAt cmd 4).toNat)) :
    answerOf c p cmd s = .refusal .badArgument := by
  rw [answerOf_binding hc]
  by_cases hslot : 8 ≤ (byteAt cmd 2).toNat
  · exact withSlot_badArgument hslot
  · obtain ⟨hrange, hcount⟩ := h.resolve_left hslot
    obtain ⟨n, hn⟩ := withSlot_of_lt (f := fun n => check (countJudged c cmd) .badArgument <| ifOwned s p n <|
      ifRange s n (indexArg cmd) (entryCount c cmd) <| bindingAt c p cmd n s) (Nat.lt_of_not_le hslot)
    refine hn.trans (check_neg fun hjudged => ?_)
    obtain ⟨hlow, hhigh⟩ : 1 ≤ (byteAt cmd 4).toNat ∧ (byteAt cmd 4).toNat ≤ 16 := hjudged hrange
    omega

/-! ## CLOSE_MAP and SET_FALLBACK, and the reports -/

theorem answerOf_ownedMap (hc : c ∈ [Command.closeMap, .setFallback]) :
    ∃ k : SlotNo → Answer, answerOf c p cmd s = withSlot (byteAt cmd 2) fun n => ifOwned s p n (k n) := by
  obtain rfl | rfl : c = .closeMap ∨ c = .setFallback := by simpa using hc
  · exact ⟨_, rfl⟩
  · exact ⟨_, rfl⟩

/-- Settles O57: each check of Table 7-3 refuses once those before it have passed. -/
theorem bindingChecksInOrder : Obligations.BindingChecksInOrder := by
  refine ⟨fun c p s cmd hc hg hb => ⟨fun hbad => ?badArgument, fun n hslot hcount => ?binding⟩,
    fun c p s cmd hc hg hb => ?ownedMap, fun p s cmd hg => ⟨fun hb hbad => ?mapInfo, fun hb hbad => ?queryArgument,
      fun hb n hslot => ⟨fun hclosed => ?queryMap, fun hopen hi => ?queryIndex⟩⟩⟩
  case badArgument => exact hg.refuses hb (answerOf_binding_badArgument hc hbad)
  case binding =>
    have hanswer := answerOf_binding_slot (p := p) (s := s) hc hslot hcount
    exact ⟨fun hopen => hg.refuses hb (hanswer.trans (ifOwned_badMap hopen)),
      fun hopen howner => hg.refuses hb (hanswer.trans (ifOwned_notOwner hopen howner)),
      fun howns hrange =>
        hg.refuses hb (hanswer.trans ((ifOwned_of_ownsOpen howns).trans (ifRange_badIndex hrange)))⟩
  case ownedMap =>
    obtain ⟨k, hanswer⟩ := answerOf_ownedMap (p := p) (cmd := cmd) (s := s) hc
    refine ⟨fun hbad => hg.refuses hb (hanswer.trans (withSlot_badArgument hbad)), fun n hslot => ?_⟩
    have hanswer := hanswer.trans (withSlot_of_eq hslot)
    exact ⟨fun hopen => hg.refuses hb (hanswer.trans (ifOwned_badMap hopen)),
      fun hopen howner => hg.refuses hb (hanswer.trans (ifOwned_notOwner hopen howner))⟩
  case mapInfo => exact hg.refuses (c := .mapInfo) hb (withSlot_badArgument hbad)
  case queryArgument => exact hg.refuses (c := .queryIndex) hb (withSlot_badArgument hbad)
  case queryMap =>
    exact hg.refuses (c := .queryIndex) hb ((withSlot_of_eq hslot).trans (check_neg fun h => h hclosed))
  case queryIndex =>
    exact hg.refuses (c := .queryIndex) hb
      ((withSlot_of_eq hslot).trans ((check_pos hopen).trans (ifIndex_badIndex hi)))

/-! ## The privileged commands -/

theorem bandOfByte_eq_none : bandOfByte b = none ↔ 4 ≤ b.toNat := by
  unfold bandOfByte
  split
  · simp only [reduceCtorEq, false_iff]; omega
  · simp only [true_iff]; omega

theorem answerSetBand_badArgument
    (h : 4 ≤ (byteAt cmd 2).toNat ∨ 2047 < wordAt cmd 4 ∨ 8 ≤ (byteAt cmd 6).toNat) :
    answerSetBand p cmd s = .refusal .badArgument := by
  unfold answerSetBand
  split
  case h_1 => rfl
  case h_2 j hband =>
    have hsome : ¬ 4 ≤ (byteAt cmd 2).toNat := fun h4 => by
      rw [bandOfByte_eq_none.2 h4] at hband
      cases hband
    by_cases hline : wordAt cmd 4 ≤ 2047
    · exact (check_pos hline).trans (withSlot_badArgument ((h.resolve_left hsome).resolve_left (Nat.not_lt.2 hline)))
    · exact check_neg hline

/-- With its arguments in range, what is left of SET_BAND is privilege and room (R115). -/
theorem answerSetBand_checked (hband : (byteAt cmd 2).toNat < 4) (hline : wordAt cmd 4 ≤ 2047)
    (hslot : (byteAt cmd 6).toNat < 8) : ∃ j r, answerSetBand p cmd s = stageBand p j r s := by
  unfold answerSetBand
  split
  case h_1 hnone => exact absurd (bandOfByte_eq_none.1 hnone) (Nat.not_le.2 hband)
  case h_2 j _ =>
    obtain ⟨n, hn⟩ := withSlot_of_lt (f := fun n =>
      stageBand p j ⟨byteAt cmd 3 ≠ 0, wordAt cmd 4, n, byteAt cmd 7⟩ s) hslot
    exact ⟨j, _, (check_pos hline).trans hn⟩

/-- Settles O58: the arguments are judged before the privilege, and the slot of FORCE_CLOSE after it. -/
theorem privilegeIsTheControlPorts : Obligations.PrivilegeIsTheControlPorts := by
  intro p s cmd hg
  refine ⟨fun hb => ⟨fun hbad => ?forceCloseArgument, fun hslot hother => ?forceClose,
      fun n hslot hcontrol hopen => ?forceCloseMap⟩,
    fun hb => ⟨fun hbad => ?quotaArgument, fun hslot hmax hother => ?quota⟩,
    fun hb => ⟨fun hbad => ?bandArgument, fun hband hline hslot hother => ?band⟩,
    fun hb => ⟨fun hbad => ?configArgument, fun hmax hother => ?config⟩, fun hb hother => ?blank⟩
  case forceCloseArgument => exact hg.refuses (c := .forceClose) hb (withSlot_badArgument hbad)
  case forceClose =>
    obtain ⟨n, hn⟩ := withSlot_of_lt hslot
    exact hg.refuses (c := .forceClose) hb (hn.trans (check_neg (Ne.symm hother)))
  case forceCloseMap =>
    exact hg.refuses (c := .forceClose) hb
      ((withSlot_of_eq hslot).trans ((check_pos hcontrol.symm).trans (check_neg hopen)))
  case quotaArgument =>
    refine hg.refuses (c := .setQuota) (code := .badArgument) hb ?_
    by_cases hslot : 8 ≤ (byteAt cmd 2).toNat
    · exact withSlot_badArgument hslot
    · obtain ⟨n, hn⟩ := withSlot_of_lt (Nat.lt_of_not_le hslot)
      exact hn.trans (check_neg (Nat.not_le.2 (hbad.resolve_left hslot)))
  case quota =>
    obtain ⟨n, hn⟩ := withSlot_of_lt hslot
    exact hg.refuses (c := .setQuota) hb (hn.trans ((check_pos hmax).trans (check_neg (Ne.symm hother))))
  case bandArgument => exact hg.refuses (c := .setBand) hb (answerSetBand_badArgument hbad)
  case band =>
    obtain ⟨j, r, hanswer⟩ := answerSetBand_checked (p := p) (s := s) hband hline hslot
    exact hg.refuses (c := .setBand) hb (hanswer.trans (check_neg (Ne.symm hother)))
  case configArgument => exact hg.refuses (c := .setConfig) hb (check_neg (Nat.not_le.2 hbad))
  case config => exact hg.refuses (c := .setConfig) hb ((check_pos hmax).trans (check_neg (Ne.symm hother)))
  case blank => exact hg.refuses (c := .setBlank) hb (check_neg (Ne.symm hother))

/-! ## The batch of an execution, and no room for one edit (R77, R79) -/

theorem nextNumber_eq (k : Nat) : nextNumber k = if k = 65535 then 1 else k + 1 := rfl

/-- Settles O56: an acceptance stages what fits, and each of the five commands stages one edit. -/
theorem engineAppendsOneFittingBatch : Obligations.EngineAppendsOneFittingBatch := by
  refine ⟨fun c p s t hports hexec => ?queue, fun p s cmd hg hfull => ⟨fun n hslot =>
    ⟨fun hb howns => ?closeMap, fun hb howns => ?setFallback, fun hb hcontrol hopen => ?forceClose⟩,
    fun hb hband hline hslot hcontrol => ?setBand, fun hb hcontrol => ?setBlank⟩⟩
  case queue =>
    obtain ⟨hgranted, hc, ht⟩ := commandRow_next hexec
    obtain ⟨hqueue, hnext⟩ | ⟨es, hqueue, hnext, hroom, hone, hmax⟩ := queue_deliver hports hgranted hc ht
    · exact .inl ⟨hqueue, hnext⟩
    · exact .inr ⟨es, hone, hmax, hroom, hqueue, hnext.trans (nextNumber_eq _)⟩
  case closeMap =>
    exact hg.refuses (c := .closeMap) hb ((withSlot_of_eq hslot).trans
      ((ifOwned_of_ownsOpen howns).trans (staged_stageFull (State.drainSlot_queue ..) hfull)))
  case setFallback =>
    exact hg.refuses (c := .setFallback) hb ((withSlot_of_eq hslot).trans
      ((ifOwned_of_ownsOpen howns).trans (staged_stageFull (State.setSlot_queue ..) hfull)))
  case forceClose =>
    have hqueue : ((s.drainSlot n).raiseRevoked n (s.slot n).owner).queue = s.queue :=
      (WorkingChange.forceClose (p := p) (c := .forceClose) hopen).untouched.queue
    exact hg.refuses (c := .forceClose) hb ((withSlot_of_eq hslot).trans
      ((check_pos hcontrol.symm).trans ((check_pos hopen).trans (staged_stageFull hqueue hfull))))
  case setBand =>
    obtain ⟨j, r, hanswer⟩ := answerSetBand_checked (p := p) (s := s) hband hline hslot
    exact hg.refuses (c := .setBand) hb
      (hanswer.trans ((check_pos hcontrol.symm).trans (staged_stageFull rfl hfull)))
  case setBlank =>
    exact hg.refuses (c := .setBlank) hb ((check_pos hcontrol.symm).trans (staged_stageFull rfl hfull))

end Sys2Proof.Machine
end

section
/-! PROOFS. The entry, resource and room checks of the binding commands (spec/03, R47, R51, R53, R55, R56, R59, R62,
R64; spec/04, R79). -/

namespace Sys2Proof.Machine

variable {s u : State} {p : Port} {n m : SlotNo} {c : Command} {cmd fields : List Byte} {i j k first count : Nat}
  {d e : CellNo} {v : Colour} {es : List Edit} {code : ResultCode}

theorem entryCount_of_range (hc : isRange c = true) : entryCount c cmd = countArg cmd := if_pos hc

theorem entryCount_of_single (hc : isRange c = false) : entryCount c cmd = 1 := if_neg (by rw [hc]; nofun)

/-! ## The entries of a range -/

theorem unbound_iff_boundAmong :
    (∀ k, k < count → s.entry n (first + k) = none) ↔ s.boundAmong n (State.indexRange first count) = [] := by
  rw [State.boundAmong_eq_nil]
  constructor
  · intro h i hi
    obtain ⟨hlow, hhigh⟩ := List.mem_range'_1.1 hi
    obtain ⟨k, rfl⟩ := Nat.exists_eq_add_of_le hlow
    exact h k (Nat.lt_of_add_lt_add_left hhigh)
  · exact fun h k hk => h _ (List.mem_range'_1.2 ⟨Nat.le_add_right .., Nat.add_lt_add_left hk _⟩)

theorem unbound_single (hc : isRange c = false) :
    (∀ k, k < entryCount c cmd → s.entry n (i + k) = none) ↔ s.entry n i = none := by
  rw [entryCount_of_single hc]
  exact ⟨fun h => h 0 Nat.one_pos, fun h k hk => by rwa [Nat.lt_one_iff.1 hk]⟩

/-! ## The PRIVATE cells of STORE, LOAD_VALUES and FREEZE (R55, R56, R64) -/

theorem State.ownedCell_of_unbound (h : s.entry n i = none) : s.ownedCell n i = .error .unbound := by
  simp [State.ownedCell, h]

theorem State.ownedCell_of_shared (h : s.entry n i = some d) (hd : isShared s d = true) :
    s.ownedCell n i = .error .notPrivate := by
  obtain ⟨v, k, hcell⟩ := isShared_eq_true.1 hd
  simp [State.ownedCell, h, hcell]

theorem State.exists_ownedCell (h : (s.entry n i).any (isPriv s) = true) : ∃ d, s.ownedCell n i = .ok d := by
  obtain ⟨d, hd, hpriv⟩ := (Option.any_eq_true ..).1 h
  exact ⟨d, State.ownedCell_eq_ok.2 ⟨hd, hpriv⟩⟩

/-- The refusal is that of the first index that fails (R56). -/
theorem State.ownedCells_eq_error (hk : k < count)
    (hbefore : ∀ j, j < k → (s.entry n (first + j)).any (isPriv s) = true)
    (hfails : s.ownedCell n (first + k) = .error code) :
    s.ownedCells n (State.indexRange first count) = .error code := by
  induction count generalizing first k with
  | zero => exact absurd hk (Nat.not_lt_zero k)
  | succ count ih =>
    cases k with
    | zero =>
      rw [Nat.add_zero] at hfails
      rw [State.indexRange, List.range'_succ, State.ownedCells, hfails]
    | succ k =>
      obtain ⟨d, hd⟩ := State.exists_ownedCell (hbefore 0 (Nat.succ_pos k))
      rw [Nat.add_zero] at hd
      have hshift (j : Nat) : first + 1 + j = first + (j + 1) := by omega
      have htail := ih (first := first + 1) (Nat.lt_of_succ_lt_succ hk)
        (fun j hj => by rw [hshift]; exact hbefore (j + 1) (Nat.succ_lt_succ hj)) (by rwa [hshift])
      rw [State.indexRange] at htail
      rw [State.indexRange, List.range'_succ, State.ownedCells, hd, htail]

theorem State.exists_ownedCells (h : ∀ k, k < count → (s.entry n (first + k)).any (isPriv s) = true) :
    ∃ cs, s.ownedCells n (State.indexRange first count) = .ok cs ∧ cs.length = count := by
  obtain ⟨cs, hcs⟩ : ∃ cs, s.ownedCells n (State.indexRange first count) = .ok cs := by
    induction count generalizing first with
    | zero => exact ⟨[], rfl⟩
    | succ count ih =>
      obtain ⟨d, hd⟩ := State.exists_ownedCell (h 0 (Nat.succ_pos count))
      rw [Nat.add_zero] at hd
      obtain ⟨cs, hcs⟩ := ih (first := first + 1) fun k hk => by
        rw [Nat.add_assoc, Nat.add_comm 1 k]
        exact h (k + 1) (Nat.succ_lt_succ hk)
      rw [State.indexRange] at hcs
      exact ⟨d :: cs, by rw [State.indexRange, List.range'_succ, State.ownedCells, hd, hcs]⟩
  exact ⟨cs, hcs, (State.ownedCells_ok hcs).1.trans List.length_range'⟩

theorem bindingAt_of_ownedCell_error (hc : c ∈ [Command.store, .freeze])
    (h : s.ownedCell n (indexArg cmd) = .error code) : bindingAt c p cmd n s = .refusal code := by
  obtain rfl | rfl : c = .store ∨ c = .freeze := by simpa using hc
  · simp only [bindingAt, h]
  · simp only [bindingAt, h]

theorem bindingAt_loadValues_error
    (h : s.ownedCells n (State.indexRange (indexArg cmd) (countArg cmd)) = .error code) :
    bindingAt .loadValues p cmd n s = .refusal code := by
  simp only [bindingAt, h]

theorem bindingAt_release_unbound (h : s.entry n (indexArg cmd) = none) :
    bindingAt .release p cmd n s = .refusal .unbound := by
  simp only [bindingAt, h]

theorem bindingAt_unbound (hc : c ∈ [Command.store, .freeze, .release]) (h : s.entry n (indexArg cmd) = none) :
    bindingAt c p cmd n s = .refusal .unbound := by
  obtain rfl | rfl | rfl : c = .store ∨ c = .freeze ∨ c = .release := by simpa using hc
  · exact bindingAt_of_ownedCell_error (by simp) (State.ownedCell_of_unbound h)
  · exact bindingAt_of_ownedCell_error (by simp) (State.ownedCell_of_unbound h)
  · exact bindingAt_release_unbound h

/-- A new value for each of the entries that are all bound to PRIVATE cells is refused for room alone (R79). -/
theorem bindingAt_values_stageFull (hc : c ∈ [Command.store, .loadValues])
    (hpriv : ∀ k, k < entryCount c cmd → (s.entry n (indexArg cmd + k)).any (isPriv s) = true)
    (hfull : ¬ hasRoom s (entryCount c cmd)) : bindingAt c p cmd n s = .refusal .stageFull := by
  obtain rfl | rfl : c = .store ∨ c = .loadValues := by simpa using hc
  · obtain ⟨d, hd⟩ := State.exists_ownedCell (hpriv 0 Nat.one_pos)
    rw [Nat.add_zero] at hd
    simp only [bindingAt, hd]
    exact staged_stageFull (State.setPrivValue_queue ..) hfull
  · obtain ⟨cs, hcs, hlength⟩ := State.exists_ownedCells hpriv
    rw [entryCount_of_range rfl] at hcs hlength hfull
    simp only [bindingAt, hcs]
    refine staged_stageFull TablesOnly.loadAll.queue ?_
    rwa [show (loadEdits (cs.zip (loadColours cmd (countArg cmd)))).length = countArg cmd by
      simp [loadEdits, loadColours, hlength]]

/-! ## Allocations (R47, R51, R53) -/

/-- A bound entry refuses an allocation. -/
theorem bindingAt_bound (hc : c ∈ [Command.allocShared, .allocPrivate, .allocRange])
    (h : ∃ k, k < entryCount c cmd ∧ s.entry n (indexArg cmd + k) ≠ none) :
    bindingAt c p cmd n s = .refusal .bound := by
  have hbound : ¬ ∀ k, k < entryCount c cmd → s.entry n (indexArg cmd + k) = none := by
    obtain ⟨k, hk, hentry⟩ := h
    exact fun hall => hentry (hall k hk)
  obtain rfl | rfl | rfl : c = .allocShared ∨ c = .allocPrivate ∨ c = .allocRange := by simpa using hc
  · exact check_neg (mt (unbound_single rfl).2 hbound)
  · exact check_neg (mt (unbound_single rfl).2 hbound)
  · exact check_neg (mt unbound_iff_boundAmong.2 hbound)

theorem allocPrivateAt_eq :
    ∃ u es fields, u.queue = s.queue ∧ (1 ≤ s.freeList.length → es.length = 2) ∧
      allocPrivateAt p n i v s = check (1 ≤ s.freeList.length) .noCells (staged u p es fields) := by
  unfold allocPrivateAt
  cases hfree : s.freeList with
  | nil => exact ⟨s, [], [], rfl, nofun, rfl⟩
  | cons d rest => exact ⟨_, _, _, by simp, fun _ => rfl, (check_pos (Nat.le_add_left ..)).symm⟩

/-- With the entries unbound, an allocation of PRIVATE cells is judged by the quota, the free cells and the room, in
that order. -/
theorem bindingAt_allocCells (hc : c ∈ [Command.allocPrivate, .allocRange])
    (hunbound : ∀ k, k < entryCount c cmd → s.entry n (indexArg cmd + k) = none) :
    ∃ u es fields, u.queue = s.queue ∧ (entryCount c cmd ≤ s.freeList.length → es.length = 2 * entryCount c cmd) ∧
      bindingAt c p cmd n s =
        (check ((s.slot n).privCount + entryCount c cmd ≤ (s.slot n).quota) .quota <|
          check (entryCount c cmd ≤ s.freeList.length) .noCells <| staged u p es fields) := by
  obtain rfl | rfl : c = .allocPrivate ∨ c = .allocRange := by simpa using hc
  · obtain ⟨u, es, fields, hqueue, hlength, halloc⟩ := allocPrivateAt_eq (s := s) (p := p) (n := n)
      (i := indexArg cmd) (v := colourAt cmd 4)
    exact ⟨u, es, fields, hqueue, hlength,
      (check_pos ((unbound_single rfl).1 hunbound)).trans (congrArg (check _ ResultCode.quota) halloc)⟩
  · refine ⟨_, _, _, ?_, length_rangeEdits, check_pos (unbound_iff_boundAmong.1 hunbound)⟩
    exact (State.raiseIfLow_queue ..).trans TablesOnly.bindRange.queue

section
variable (hunbound : s.entry n (indexArg cmd) = none)
include hunbound

theorem bindingAt_allocShared_held (hlookup : s.lookup (colourAt cmd 4) = some d) :
    bindingAt .allocShared p cmd n s = check (s.holders d < 255) .shareLimit
      (staged (s.bindHeldShared n (indexArg cmd) d (colourAt cmd 4)) p [.entry n (indexArg cmd) (some d)]
        (twoBytes d ++ flagByte false)) := by
  refine (check_pos hunbound).trans ?_
  rw [allocSharedAt, hlookup]

theorem bindingAt_allocShared_noCells (hlookup : s.lookup (colourAt cmd 4) = none) (hfree : s.freeList = []) :
    bindingAt .allocShared p cmd n s = .refusal .noCells := by
  refine (check_pos hunbound).trans ?_
  rw [allocSharedAt, hlookup, hfree]
  rfl

theorem bindingAt_allocShared_stageFull (hlookup : s.lookup (colourAt cmd 4) = none) (hfree : s.freeList ≠ [])
    (hfull : ¬ hasRoom s 2) : bindingAt .allocShared p cmd n s = .refusal .stageFull := by
  obtain ⟨d, rest, hrest⟩ := List.exists_cons_of_ne_nil hfree
  refine (check_pos hunbound).trans ?_
  rw [allocSharedAt, hlookup, hrest]
  exact staged_stageFull (by simp) hfull

end

/-! ## RELEASE, RELEASE_RANGE and FREEZE (R59, R62, R64) -/

theorem bindingAt_release_stageFull (hbound : s.entry n (indexArg cmd) ≠ none) (hfull : ¬ hasRoom s 1) :
    bindingAt .release p cmd n s = .refusal .stageFull := by
  obtain ⟨d, hd⟩ := Option.ne_none_iff_exists'.1 hbound
  simp only [bindingAt, hd]
  exact staged_stageFull (State.releaseEntry_queue ..) hfull

theorem bindingAt_releaseRange_stageFull
    (hsome : 1 ≤ (List.range' (indexArg cmd) (countArg cmd)).countP fun i => (s.entry n i).isSome)
    (hfull : ¬ hasRoom s ((List.range' (indexArg cmd) (countArg cmd)).countP fun i => (s.entry n i).isSome)) :
    bindingAt .releaseRange p cmd n s = .refusal .stageFull := by
  rw [List.countP_eq_length_filter] at hsome hfull
  refine (releaseBound_of_ne_nil (List.length_pos_iff.1 hsome)).trans ?_
  exact staged_stageFull (State.releaseEntries_queue ..) (by rwa [List.length_map])

/-- FREEZE of the PRIVATE cell of a value that a SHARED cell holds is a merge (R65). -/
theorem bindingAt_freeze_held (hs : CellsOk s) (hentry : s.entry n (indexArg cmd) = some d)
    (hd : s.cell d = .priv v m j) (he : s.cell e = .shared v k) :
    bindingAt .freeze p cmd n s = check (k < 255) .shareLimit
      (staged (mergeInto s n (indexArg cmd) d e v) p [.entry n (indexArg cmd) (some e)]
        (twoBytes e ++ flagByte true)) := by
  simp only [bindingAt, State.ownedCell_of_priv hentry hd, State.workingValue_of_priv hd, hs.lookup_eq_some he,
    State.holders_of_shared he]

/-! ## The obligation -/

/-- A count of 1 to 16 is one that the engine accepts (R45). -/
theorem countJudged_of_range (hone : 1 ≤ entryCount c cmd) (hmax : entryCount c cmd ≤ 16) : countJudged c cmd := by
  intro hc
  obtain rfl | rfl := hc
  · exact ⟨hone, hmax⟩
  · exact ⟨hone, hmax⟩

/-- Settles O59: what is left of a binding command once its slot and range are judged, check by check. -/
theorem bindingRefusesByEntryAndResource : Obligations.BindingRefusesByEntryAndResource := by
  rintro c p s cmd n _ _ hs hc hg hb hslot howns rfl rfl hone hmax hrange refuses
  have hanswer : answerOf c p cmd s = bindingAt c p cmd n s :=
    answerOf_binding_checked hc hslot (countJudged_of_range hone hmax) howns hrange
  have hrefuse (code : ResultCode) (h : bindingAt c p cmd n s = .refusal code) : refuses (resultByte code) :=
    hg.refuses hb (hanswer.trans h)
  refine ⟨fun hc h => hrefuse .bound (bindingAt_bound hc h),
    fun hc h => hrefuse .unbound (bindingAt_unbound hc h),
    fun hc d hd hshared => hrefuse .notPrivate
      (bindingAt_of_ownedCell_error hc (State.ownedCell_of_shared hd hshared)),
    ?loadValues, fun hc hunbound => ⟨fun hquota => ?quota, fun hquota hcells => ?noCells⟩,
    ?allocShared, ?freezeLimit, ?allocSharedRoom, fun hc hunbound hquota hcells hfull => ?allocRoom,
    fun hc hpriv hfull => hrefuse .stageFull (bindingAt_values_stageFull hc hpriv hfull),
    ?release, ?releaseRange, ?freezeRoom⟩
  case loadValues =>
    rintro rfl k hk hbefore
    exact ⟨fun hunbound => hrefuse .unbound (bindingAt_loadValues_error
        (State.ownedCells_eq_error hk hbefore (State.ownedCell_of_unbound hunbound))),
      fun d hd hshared => hrefuse .notPrivate (bindingAt_loadValues_error
        (State.ownedCells_eq_error hk hbefore (State.ownedCell_of_shared hd hshared)))⟩
  case quota =>
    obtain ⟨u, es, fields, -, -, halloc⟩ := bindingAt_allocCells (p := p) hc hunbound
    exact hrefuse .quota (halloc.trans (check_neg (Nat.not_le.2 hquota)))
  case noCells =>
    obtain ⟨u, es, fields, -, -, halloc⟩ := bindingAt_allocCells (p := p) hc hunbound
    exact hrefuse .noCells (halloc.trans ((check_pos hquota).trans (check_neg (Nat.not_le.2 hcells))))
  case allocRoom =>
    obtain ⟨u, es, fields, hqueue, hlength, halloc⟩ := bindingAt_allocCells (p := p) hc hunbound
    exact hrefuse .stageFull (halloc.trans ((check_pos hquota).trans
      ((check_pos hcells).trans (staged_stageFull hqueue (by rwa [hlength hcells])))))
  case allocShared =>
    rintro rfl hunbound _ rfl
    refine ⟨fun d hd => hrefuse .shareLimit ?_, fun hnone hfree => hrefuse .noCells
      (bindingAt_allocShared_noCells hunbound (hs.cells.lookup_eq_none hnone) hfree)⟩
    refine (bindingAt_allocShared_held hunbound (hs.cells.lookup_eq_some hd)).trans (check_neg ?_)
    rw [State.holders_of_shared hd]
    exact Nat.lt_irrefl 255
  case allocSharedRoom =>
    rintro rfl hunbound _ rfl
    refine ⟨fun d h hd hh hfull => hrefuse .stageFull ?_, fun hnone hfree hfull => hrefuse .stageFull
      (bindingAt_allocShared_stageFull hunbound (hs.cells.lookup_eq_none hnone) hfree hfull)⟩
    refine (bindingAt_allocShared_held hunbound (hs.cells.lookup_eq_some hd)).trans ((check_pos ?_).trans
      (staged_stageFull (State.bindHeldShared_queue ..) hfull))
    rwa [State.holders_of_shared hd]
  case freezeLimit =>
    rintro rfl d e v m j hentry hd he
    exact hrefuse .shareLimit ((bindingAt_freeze_held hs.cells hentry hd he).trans (check_neg (Nat.lt_irrefl 255)))
  case freezeRoom =>
    rintro rfl d e v m j h hentry hd he hh hfull
    exact hrefuse .stageFull ((bindingAt_freeze_held hs.cells hentry hd he).trans
      ((check_pos hh).trans (staged_stageFull TablesOnly.mergeInto.queue hfull)))
  case release =>
    rintro rfl hbound hfull
    exact hrefuse .stageFull (bindingAt_release_stageFull hbound hfull)
  case releaseRange =>
    rintro rfl _ rfl hsome hfull
    exact hrefuse .stageFull (bindingAt_releaseRange_stageFull hsome hfull)

end Sys2Proof.Machine
end
